-- ==== Sys2Proof/Word.lean ====
section
/-! DEFINITION. The values of the engine (00_scope.md R8; 10_state.md R20 to R28): bytes, words, the shapes of the
register files, and the closed lists of names the spec gives two or three values. -/

namespace Sys2Proof

/-- An 8-bit unsigned value, bits 7 down to 0 (R8). -/
abbrev Byte := BitVec 8

/-- A 32-bit unsigned value, bits 31 down to 0 (R8). -/
abbrev Word := BitVec 32

/-- The State `ST`: row `r`, then column `c`, each in 0..3 (R21). -/
abbrev Cells := Vector (Vector Byte 4) 4

/-- One 16-byte block, as the buffers `DIN` and `DOUT` hold it (R25). -/
abbrev Block := Vector Byte 16

/-- The key buffer `KEY`, 32 bytes (R25). -/
abbrev KeyBuffer := Vector Byte 32

/-- The key-schedule file `W`, 60 words (R22). -/
abbrev Schedule := Vector Word 60

/-- `DIR`: 0 = encrypt, 1 = decrypt (R24, R70). -/
inductive Dir where
  | enc
  | dec
  deriving DecidableEq, Repr, Inhabited

/-- The two errors of the engine (R210, R211, R212). -/
inductive LengthError where
  | invalidKeyLength
  | invalidBlockLength
  deriving DecidableEq, Repr, Inhabited

/-- `STATUS`: three values, and no fourth (R210; 93_implementation_defined.md U3). -/
inductive Status where
  | ok
  | invalidKeyLength
  | invalidBlockLength
  deriving DecidableEq, Repr, Inhabited

/-- The three variants, which the key length selects (R2, R6). -/
inductive Variant where
  | aes128
  | aes192
  | aes256
  deriving DecidableEq, Repr, Inhabited

/-- What one command gives back (R192, R190): the 16 bytes of `DOUT` on success, else the error. -/
inductive Response where
  | ok (block : Block)
  | err (e : LengthError)
  deriving DecidableEq, Repr

end Sys2Proof
end

