-- ==== Sys2Proof/Config.lean ====
section
/-! DEFINITION. The free values: constants with no body, so nothing can be proved of what they are. They stand wherever
the spec says a piece of state "holds no value" (10_state.md R29, R30; 93_implementation_defined.md U1, U9, U12).
Each is one constant for every engine instance (log entry 4).
The open parameters `NINST` and `TRACE` (00_scope.md R7) are arguments of the definitions that need them
(Machine/System.lean, Machine/Tap.lean), as U11 asks. -/

namespace Sys2Proof.Config

/-- DESIGN CHOICE (log entries 2 and 4). A free byte, drawn with the counter `State.freeCount`: a cell of `ST`, a byte of
`KEY`, `DIN`, `DOUT`, or one of the counts `KLEN`, `BLEN`, while it holds no value (R30). -/
opaque freeByte : Nat → Byte

/-- DESIGN CHOICE (log entries 2 and 4). A free word: a word of `W` while it holds no value (R30). -/
opaque freeWord : Nat → Word

/-- DESIGN CHOICE (log entries 2 and 4). A free 4-bit value: `NK` or `NR` while it holds no value (R30). -/
opaque freeNibble : Nat → BitVec 4

/-- DESIGN CHOICE (log entries 3 and 4). A free 6-bit value: `UPC` after a host reset (R240). -/
opaque freeUpc : Nat → BitVec 6

/-- DESIGN CHOICE (log entries 3 and 4). A free direction: `DIR` after a host reset (R240). -/
opaque freeDir : Nat → Dir

/-- DESIGN CHOICE (log entries 3 and 4). A free status: `STATUS` after a host reset (R240). -/
opaque freeStatus : Nat → Status

/-- DESIGN CHOICE (log entry 11, safe). What a read outside `KEY` would give, by index; no command makes one (R57). -/
opaque absentByte : Nat → Byte

/-- DESIGN CHOICE (log entry 11, safe). What a read outside `W` would give, by index; no command makes one
(43_key_scheduler.md R164). -/
opaque absentWord : Nat → Word

/-- DESIGN CHOICE (log entry 11, safe). What a read outside `RCON` would give, by index; no command makes one
(U9; 43_key_scheduler.md R164). -/
opaque absentRcon : Nat → Word

/-- DESIGN CHOICE (log entry 9, safe). `temp` of `KEXP` for word `i` when `NK = 0`, where `i % NK` and `i / NK` have no
value (R10); a function of the operands of that iteration, `i` and `W[i-1]`. No command comes to it (R97). -/
opaque noQuotientTemp : Nat → Word → Word

end Sys2Proof.Config
end

