-- ==== Sys2Proof/Syntax.lean ====
section
/-! DEFINITION. The instructions: one constructor per row of spec/opcode_table.json (30_encoding.md R70, R74), and the
pseudo-instructions of R80. -/

namespace Sys2Proof

/-- The two commands (format C, R70) and the eleven micro-operations (format U, R74). The payload of a command travels
beside its word (R77) and so is no part of the instruction. -/
inductive Instr where
  /-- `ENC` with its counts `KLEN` and `BLEN` (R185). -/
  | enc (klen blen : BitVec 8)
  /-- `DEC` with its counts `KLEN` and `BLEN` (R186). -/
  | dec (klen blen : BitVec 8)
  /-- `CHKLEN` (R182). -/
  | chklen
  /-- `KEXP` (R160). -/
  | kexp
  /-- `LDST` (R183). -/
  | ldst
  /-- `ARK K` (R137); `K` is the loop index of the round key (R75). -/
  | ark (k : BitVec 4)
  /-- `SUBB` (R131). -/
  | subb
  /-- `SHR` (R133). -/
  | shr
  /-- `MIXC` (R135). -/
  | mixc
  /-- `STST` (R184). -/
  | stst
  /-- `ISUBB` (R132). -/
  | isubb
  /-- `ISHR` (R134). -/
  | ishr
  /-- `IMIXC` (R136). -/
  | imixc
  deriving DecidableEq, Repr

/-- The four round compositions of R80, macros over micro-operations. -/
inductive Pseudo where
  /-- `FROUND i` (R142). -/
  | fround (i : Nat)
  /-- `FFINAL` (R143). -/
  | ffinal
  /-- `IROUND i` (R144). -/
  | iround (i : Nat)
  /-- `IFINAL` (R145). -/
  | ifinal
  deriving DecidableEq, Repr

end Sys2Proof
end

