-- ==== Sys2Proof/Machine/State.lean ====
section
/-! DEFINITION. The state of one engine instance (10_state.md R20), the host beside it (44_cipher_engine.md R180, R196),
the reasons a step can stop, and the state after reset (R33; 70_reset_and_hazards.md R240). -/

namespace Sys2Proof.Machine

/-- What the host can do (R180, R196). `wait` is the host doing nothing for one step (DESIGN CHOICE, log entry 5). -/
inductive HostAction where
  /-- Present a command word with key bytes and block bytes (R181). -/
  | present (cmd : BitVec 17) (key blk : List Byte)
  /-- Read the response (R192). -/
  | readResponse
  /-- Assert reset (R241). -/
  | reset
  /-- Do nothing for one step. -/
  | wait
  deriving DecidableEq, Repr

/-- The host (DESIGN CHOICE, log entry 5: the model's own fields, none of them the engine's). -/
structure Env where
  /-- What the host will do, in order. -/
  script : List HostAction
  /-- The key bytes the host shows beside the command word (R70). -/
  key : List Byte
  /-- The block bytes the host shows beside the command word (R70). -/
  blk : List Byte
  /-- What the host has read, oldest first; `none` for a read while no response stood (`RVALID = 0`). -/
  seen : List (Option Response)
  deriving DecidableEq, Repr

/-- One engine instance: exactly the table of R20, then the host and the counter of the free values. -/
structure State where
  /-- `ST[r][c]` (R21). -/
  st : Cells
  /-- `W[i]` (R22). -/
  w : Schedule
  /-- `NK` (R23). -/
  nk : BitVec 4
  /-- `NR` (R23). -/
  nr : BitVec 4
  /-- `DIR` (R24). -/
  dir : Dir
  /-- `KLEN` (R24). -/
  klen : BitVec 8
  /-- `BLEN` (R24). -/
  blen : BitVec 8
  /-- `KEY[i]` (R25). -/
  key : KeyBuffer
  /-- `DIN[i]` (R25). -/
  din : Block
  /-- `DOUT[i]` (R25). -/
  dout : Block
  /-- `STATUS` (R27). -/
  status : Status
  /-- `RVALID` (R27). -/
  rvalid : Bool
  /-- `BUSY` (R27). -/
  busy : Bool
  /-- `UPC` (R26). -/
  upc : BitVec 6
  /-- The host (log entry 5). -/
  env : Env
  /-- The next free value's number (DESIGN CHOICE, log entry 4). -/
  freeCount : Nat
  deriving DecidableEq, Repr

/-- Where the machine stops. None of these is an error of the hardware: its two errors end a command in a next state
(R214). -/
inductive Fault where
  /-- Raised by `ENC` and `DEC` executed while `BUSY = 1`: acceptance is not enabled then (R181, R247; U5: stuck). The
  step never does that: the host holds off (R196). Safe. Log entry 8. -/
  | acceptanceNotEnabled
  /-- Raised by the sequencer when `BUSY = 1` and `UPC` is past the micro-program's end (R189: no step is enabled).
  Safe. Log entry 12. -/
  | sequencerPastEnd
  deriving DecidableEq, Repr

/-- Why an instruction has no meaning. -/
inductive Refusal where
  /-- Raised by an arm of `exec` that has no meaning yet; no arm does. Safe. -/
  | notModelled (mnemonic : String)
  /-- Raised by `ARK K` when `K = 15`, which R76 reserves always, or `K > NR`, which it reserves for the command in
  progress. Safe. Log entry 10. -/
  | reservedRoundKey
  /-- Raised by the sequencer for a word that R76 reserves. No micro-program of a command holds one; the list for `NR = 15`,
  which `CHKLEN` never writes, has `0x3F` at index 62 (log entry 22). Safe. Log entry 10. -/
  | reservedWord
  deriving DecidableEq, Repr

/-- The machine right after reset (R33, R240): `BUSY = 0` and `RVALID = 0`. The spec gives every other element no value;
the zeros here are the model's (DESIGN CHOICE, log entry 1, UNSAFE), the empty host is log entry 6. -/
def State.reset : State where
  st := Vector.replicate 4 (Vector.replicate 4 0)
  w := Vector.replicate 60 0
  nk := 0
  nr := 0
  dir := .enc
  klen := 0
  blen := 0
  key := Vector.replicate 32 0
  din := Vector.replicate 16 0
  dout := Vector.replicate 16 0
  status := .ok
  rvalid := false
  busy := false
  upc := 0
  env := ⟨[], [], [], []⟩
  freeCount := 0

end Sys2Proof.Machine
end

