-- ==== Sys2Proof/Machine/Flags.lean ====
section
/-! DEFINITION. The status triple `BUSY`, `RVALID`, `STATUS` (10_state.md R27), its codes (60_exceptions.md R210) and the
response it announces (44_cipher_engine.md R192). There are no condition codes (R27). -/

namespace Sys2Proof

/-- The 2-bit code of a status (R210). -/
def Status.code : Status → BitVec 2
  | .ok => 0
  | .invalidKeyLength => 1
  | .invalidBlockLength => 2

/-- The status an error leaves: `code(E)` (R214). -/
def LengthError.status : LengthError → Status
  | .invalidKeyLength => .invalidKeyLength
  | .invalidBlockLength => .invalidBlockLength

end Sys2Proof

namespace Sys2Proof.Machine

/-- The flags at command acceptance: `BUSY <- 1`, `RVALID <- 0`; `STATUS` is not touched (R181). -/
def beginFlags (s : State) : State := { s with busy := true, rvalid := false }

/-- The flags at the end of a command: `STATUS`, `RVALID <- 1`, `BUSY <- 0` (R191, R214). -/
def endFlags (c : Status) (s : State) : State := { s with status := c, rvalid := true, busy := false }

/-- The response that stands: the pair (`STATUS`, `DOUT`) while `RVALID = 1`, and no result when `STATUS` is an error
(R192). -/
def response (s : State) : Option Response :=
  if s.rvalid then
    match s.status with
    | .ok => some (.ok s.dout)
    | .invalidKeyLength => some (.err .invalidKeyLength)
    | .invalidBlockLength => some (.err .invalidBlockLength)
  else none

end Sys2Proof.Machine
end

