-- ==== Sys2Proof/Machine/Operands.lean ====
section
/-! DEFINITION. The operand forms: how block bytes, key bytes, round-key words and cells line up (20_memory.md R50 to R54),
the parameters a key length selects (00_scope.md R6), and the round key that `ARK K` reads (43_key_scheduler.md R163). -/

namespace Sys2Proof

/-! ### Parameters -/

/-- `KLEN` of a variant (R6). -/
def Variant.keyBytes : Variant → Nat
  | .aes128 => 16
  | .aes192 => 24
  | .aes256 => 32

/-- `Nk` of a variant (R6). -/
def Variant.nk : Variant → Nat
  | .aes128 => 4
  | .aes192 => 6
  | .aes256 => 8

/-- `Nr` of a variant (R6). -/
def Variant.nr : Variant → Nat
  | .aes128 => 10
  | .aes192 => 12
  | .aes256 => 14

end Sys2Proof

namespace Sys2Proof.Machine

/-! ### Cells -/

/-- `ST[r][c]`. -/
def cell (st : Cells) (r c : Fin 4) : Byte := st[r][c]

/-- The State whose cell at row `r`, column `c` is `f r c`: all 16 cells at once, each from old values (R10, R130). -/
def cellsOf (f : Fin 4 → Fin 4 → Byte) : Cells :=
  Vector.ofFn fun r => Vector.ofFn fun c => f r c

/-- The index of a cell's byte in a block: `r + 4*c` (R51, R52). -/
def blockIndex (r c : Fin 4) : Fin 16 := ⟨r.val + 4 * c.val, by omega⟩

/-- `ST[r][c] <- DIN[r + 4*c]` (R51). -/
def loadCells (b : Block) : Cells := cellsOf fun r c => b[blockIndex r c]

/-- `DOUT[r + 4*c] <- ST[r][c]` (R52): byte `n` of a block comes from row `n % 4`, column `n / 4`. -/
def storeCells (st : Cells) : Block :=
  Vector.ofFn fun n => cell st ⟨n.val % 4, by omega⟩ ⟨n.val / 4, by omega⟩

/-! ### Bytes and words -/

/-- Byte `k` of a word: bits `8k+7` to `8k`, byte 3 the most significant (R8). -/
def byteOfWord (w : Word) (k : Nat) : Byte := w.extractLsb' (8 * k) 8

/-- Four bytes as a word, most significant first: `b3 || b2 || b1 || b0` (R10). -/
def packWord (b3 b2 b1 b0 : Byte) : Word := b3 ++ b2 ++ b1 ++ b0

/-- A column of the State as a word: `ST[0][c] || ST[1][c] || ST[2][c] || ST[3][c]` (R54). -/
def columnWord (st : Cells) (c : Fin 4) : Word :=
  packWord (cell st 0 c) (cell st 1 c) (cell st 2 c) (cell st 3 c)

/-- `KEY[j]`, by a natural index; indices outside 0..31 do not exist (R57; log entry 11). -/
def keyByte (key : KeyBuffer) (j : Nat) : Byte := (key[j]?).getD (Config.absentByte j)

/-- `KEY[4i] || KEY[4i+1] || KEY[4i+2] || KEY[4i+3]` (R50). -/
def keyWord (key : KeyBuffer) (i : Nat) : Word :=
  packWord (keyByte key (4 * i)) (keyByte key (4 * i + 1)) (keyByte key (4 * i + 2)) (keyByte key (4 * i + 3))

/-- `W[i]`, by a natural index; indices outside 0..59 do not exist (R57, U9; log entry 11). -/
def readW (w : Schedule) (i : Nat) : Word := (w[i]?).getD (Config.absentWord i)

/-- `W[i] <- x`; there is no word outside 0..59 to write. -/
def writeW (w : Schedule) (i : Nat) (x : Word) : Schedule := w.setIfInBounds i x

/-! ### The variant in force -/

/-- The variant a key length selects; any other length selects none (R6). -/
def variantOfKeyLength (klen : BitVec 8) : Option Variant :=
  if klen = 16#8 then some .aes128
  else if klen = 24#8 then some .aes192
  else if klen = 32#8 then some .aes256
  else none

/-- The variant that `NK` and `NR` stand for; no other pair is ever written (R23). -/
def variantOfRegs (nk nr : BitVec 4) : Option Variant :=
  if nk = 4#4 ∧ nr = 10#4 then some .aes128
  else if nk = 6#4 ∧ nr = 12#4 then some .aes192
  else if nk = 8#4 ∧ nr = 14#4 then some .aes256
  else none

/-! ### The operand of `ARK` -/

/-- `rkbase(dir, k, nr)`: forward order for `ENC`, backward order for `DEC` (R163). -/
def rkbase (dir : Dir) (k nr : Nat) : Nat :=
  match dir with
  | .enc => 4 * k
  | .dec => 4 * (nr - k)

/-- Word `c` of the round key that starts at `base` in `W` (R161, R162). -/
def roundKeyWord (w : Schedule) (base : Nat) (c : Fin 4) : Word := readW w (base + c.val)

end Sys2Proof.Machine
end

