-- ==== Sys2Proof/Machine/Ops.lean ====
section
/-! DEFINITION. The named operations the meanings share: advancing `UPC`, losing values, accepting a command, raising an
error, ending a command, a transform of the State, and what the host does. -/

namespace Sys2Proof.Machine

/-- `UPC <- UPC + 1` (R26). -/
def advance (s : State) : State := { s with upc := s.upc + 1 }

/-! ### Raising an error and ending a command

There is no return from an error and nothing to restore: the engine is idle and takes the next command (R215). -/

/-- `raise E` (R214): `STATUS`, `RVALID`, `BUSY` are written and the command is over; everything else keeps what it held.
`UPC` does not advance, since nothing after `raise` is done (R10; DEDUCED, log entry 14). -/
def raiseError (e : LengthError) (s : State) : State := endFlags e.status s

/-- The end of a command that succeeded (R191 case (b)). -/
def endOk (s : State) : State := endFlags .ok s

/-! ### Values lost

"No value" (R29, R30) is a free value, drawn from the constants of Config with the counter `freeCount`
(DESIGN CHOICE, log entries 2 and 4). The constants are the same for every engine instance and a counter is an instance's
own, so two instances whose counters are equal get equal values here, in `shownByte` and in `hostReset`: whether they are
equal is open in the spec, and that they are is the model's choice (R60, R224; DESIGN CHOICE, log entry 4, UNSAFE for a
claim that compares such values of two instances). -/

/-- How many numbers one event draws. -/
def freeStride : Nat := 128

/-- `ST`, `W`, `NK` and `NR` lose their value (R29). -/
def loseCallState (s : State) : State :=
  let n := s.freeCount
  { s with
    st := cellsOf fun r c => Config.freeByte (n + (blockIndex r c).val)
    w := Vector.ofFn fun i => Config.freeWord (n + i.val)
    nk := Config.freeNibble n
    nr := Config.freeNibble (n + 1)
    freeCount := n + freeStride }

/-- A byte the host shows on one of its payload lines; where it shows fewer bytes than its count says, no value
(DESIGN CHOICE, log entry 7; two instances with equal counters get the same byte, log entry 4). -/
def shownByte (shown : List Byte) (j n : Nat) : Byte := (shown[j]?).getD (Config.freeByte n)

/-- `KEY[j] <- k[j]` for `j` below `min(KLEN, 32)`; the other bytes of `KEY` have no value (R181). -/
def latchKey (klen : BitVec 8) (line : List Byte) (n : Nat) : KeyBuffer :=
  Vector.ofFn fun j =>
    if j.val < klen.toNat then shownByte line j.val (n + 16 + j.val) else Config.freeByte (n + 16 + j.val)

/-- `DIN[j] <- b[j]` for `j` below `min(BLEN, 16)`; the other bytes of `DIN` have no value (R181). -/
def latchBlock (blen : BitVec 8) (line : List Byte) (n : Nat) : Block :=
  Vector.ofFn fun j =>
    if j.val < blen.toNat then shownByte line j.val (n + 48 + j.val) else Config.freeByte (n + 48 + j.val)

/-! ### The host's three actions -/

/-- Command acceptance (R181), from the payload on the host's lines. -/
def acceptCommand (dir : Dir) (klen blen : BitVec 8) (s : State) : State :=
  let n := s.freeCount
  beginFlags
    { loseCallState s with
      dir := dir
      klen := klen
      blen := blen
      key := latchKey klen s.env.key n
      din := latchBlock blen s.env.blk n
      upc := 0 }

/-- Acceptance is enabled only while `BUSY = 0` (R181, R247; U5: stuck, log entry 8). -/
def accept (dir : Dir) (klen blen : BitVec 8) (s : State) : Host.Outcome State Fault Refusal :=
  if s.busy then .fault .acceptanceNotEnabled else .next (acceptCommand dir klen blen s)

/-- Reset while the engine runs or idles (R240, R241): `BUSY` and `RVALID` are 0 and nothing else has a value, so
everything else is free (DESIGN CHOICE, log entry 3; two instances with equal counters get the same values, log entry 4).
The host is not the engine's state and stays. -/
def hostReset (s : State) : State :=
  let n := s.freeCount
  { loseCallState s with
    dir := Config.freeDir n
    klen := Config.freeByte (n + 96)
    blen := Config.freeByte (n + 97)
    key := Vector.ofFn fun j => Config.freeByte (n + 16 + j.val)
    din := Vector.ofFn fun j => Config.freeByte (n + 48 + j.val)
    dout := Vector.ofFn fun j => Config.freeByte (n + 64 + j.val)
    status := Config.freeStatus n
    upc := Config.freeUpc n
    rvalid := false
    busy := false }

/-- The host reads the response (R192): no side effect on the engine (R59); the host remembers it. -/
def hostRead (s : State) : State := { s with env := { s.env with seen := s.env.seen ++ [response s] } }

/-- The host's present action puts the payload on its lines (R70). -/
def driveLines (key blk : List Byte) (s : State) : State := { s with env := { s.env with key := key, blk := blk } }

/-- What is left of the host's script after one action. -/
def setScript (rest : List HostAction) (s : State) : State := { s with env := { s.env with script := rest } }

/-! ### A transform of the State -/

/-- A micro-operation of 42_round_transforms.md: a total function from the old State to the new one, and `UPC <- UPC + 1`;
nothing else is written and nothing can fail (R130). -/
def transform (f : Cells → Cells) (s : State) : Host.Outcome State Fault Refusal :=
  .next (advance { s with st := f s.st })

end Sys2Proof.Machine
end

