-- ==== Sys2Proof/Machine/Engine.lean ====
section
/-! DEFINITION. The cipher engine (44_cipher_engine.md): the two commands and the three micro-operations that are not
State transforms. The model is at the small-step level (R180; DESIGN CHOICE the spec offers, log entry 16): executing
`ENC` or `DEC` is acceptance, and the micro-program then runs one micro-operation a step. -/

namespace Sys2Proof.Machine

/-- `ENC` (R185): accept with `DIR = 0` (R181). -/
def execEnc (klen blen : BitVec 8) (s : State) : Host.Outcome State Fault Refusal := accept .enc klen blen s

/-- `DEC` (R186): accept with `DIR = 1` (R181). -/
def execDec (klen blen : BitVec 8) (s : State) : Host.Outcome State Fault Refusal := accept .dec klen blen s

/-- `CHKLEN` (R182): the key length is tested first (R213), then the block length; success writes `NK` and `NR`. -/
def execChklen (s : State) : Host.Outcome State Fault Refusal :=
  match variantOfKeyLength s.klen with
  | none => .next (raiseError .invalidKeyLength s)
  | some v =>
    if s.blen = 16#8 then
      .next (advance { s with nk := BitVec.ofNat 4 v.nk, nr := BitVec.ofNat 4 v.nr })
    else .next (raiseError .invalidBlockLength s)

/-- `LDST` (R183). -/
def execLdst (s : State) : Host.Outcome State Fault Refusal := .next (advance { s with st := loadCells s.din })

/-- `STST` (R184), and in the same step the end of the command (R191; the opcode table's row; DEDUCED, log entry 15). -/
def execStst (s : State) : Host.Outcome State Fault Refusal :=
  .next (endOk (advance { s with dout := storeCells s.st }))

end Sys2Proof.Machine
end

