-- ==== Sys2Proof/Machine/Gf.lean ====
section
/-! DEFINITION. The GF(2^8) multiplier (40_gf_arithmetic.md). Addition is XOR (R90); every function is pure and total
(R96). -/

namespace Sys2Proof.Machine

/-- The constant port of `gfMulSimple`: the three values that exist (R92; 92_eei_decisions.md D12). -/
inductive SimpleConst where
  | c01
  | c02
  | c03
  deriving DecidableEq, Repr

/-- The constant as the byte it stands for. -/
def SimpleConst.toByte : SimpleConst → Byte
  | .c01 => 0x01
  | .c02 => 0x02
  | .c03 => 0x03

/-- `xtime`: multiplication by `0x02` (R91). -/
def xtime (b : Byte) : Byte :=
  if b.getLsbD 7 then (b <<< 1) ^^^ 0x1B#8 else b <<< 1

/-- `gfMulSimple(a, b)` (R92). -/
def gfMulSimple (a : SimpleConst) (b : Byte) : Byte :=
  match a with
  | .c01 => b
  | .c02 => xtime b
  | .c03 => xtime b ^^^ b

/-- One iteration of the interleaved shift-and-reduce loop, on the 9-bit accumulator, for bit `k` of `a` (R93). -/
def gfIterate (a b : Byte) (acc : BitVec 9) (k : Nat) : BitVec 9 :=
  let shifted := acc <<< 1
  let added := if a.getLsbD k then shifted ^^^ b.setWidth 9 else shifted
  if added.getLsbD 8 then added ^^^ 0x11B#9 else added

/-- `gfMulGeneral(a, b)`: four iterations, bit 3 of `a` first (R93). -/
def gfMulGeneral (a b : Byte) : Byte :=
  (([3, 2, 1, 0] : List Nat).foldl (gfIterate a b) 0#9).setWidth 8

/-- `gmul(a, b)`: the reference product, eight iterations (R94). The engine's datapath does not contain it. -/
def gmul (a b : Byte) : Byte :=
  (([7, 6, 5, 4, 3, 2, 1, 0] : List Nat).foldl (gfIterate a b) 0#9).setWidth 8

end Sys2Proof.Machine
end

