-- ==== Sys2Proof/Machine/KeyScheduler.lean ====
section
/-! DEFINITION. The key scheduler (43_key_scheduler.md): `KEXP` fills the word file `W`. -/

namespace Sys2Proof.Machine

/-- `RCON[j]`; indices outside 0..9 do not exist and no command reads one (R116, R164, U9; log entry 11). -/
def rconAt (j : Nat) : Word := (RCON[j]?).getD (Config.absentRcon j)

/-- `temp` of step 2 for word `i`, from `W[i-1]`: rotate, substitute, add the round constant at a multiple of `NK`;
substitute only where `NK > 6` and `i % NK = 4`; else `W[i-1]` itself (R160). With `NK = 0`, which `CHKLEN` never writes,
`i % NK` and `i / NK` have no value (R10, R97) and so neither has `temp` (DESIGN CHOICE, log entry 9, safe). -/
def scheduleTemp (nk i : Nat) (prev : Word) : Word :=
  if nk = 0 then Config.noQuotientTemp i prev
  else if i % nk = 0 then subWord (rotWord prev) ^^^ rconAt (i / nk - 1)
  else if nk > 6 ∧ i % nk = 4 then subWord prev
  else prev

/-- One iteration of step 1 (R160, R50). -/
def loadKeyWord (key : KeyBuffer) (w : Schedule) (i : Nat) : Schedule := writeW w i (keyWord key i)

/-- One iteration of step 2: `W[i] <- W[i-NK] ^ temp` (R160). -/
def expandWord (nk : Nat) (w : Schedule) (i : Nat) : Schedule :=
  writeW w i (readW w (i - nk) ^^^ scheduleTemp nk i (readW w (i - 1)))

/-- `expandKey`: step 1 for `i = 0..NK-1`, then step 2 for `i = NK..4*(NR+1)-1`, in order; words above are not written
(R160). -/
def expandKey (nk nr : Nat) (key : KeyBuffer) (w : Schedule) : Schedule :=
  let keyed := (List.range nk).foldl (loadKeyWord key) w
  (List.range' nk (4 * (nr + 1) - nk)).foldl (expandWord nk) keyed

/-- `KEXP` (R160), on whatever `NK` and `NR` hold. In a command that is a pair `CHKLEN` wrote (R23); on any other pair the
same steps are taken, with free values for what does not exist (DESIGN CHOICE, log entry 9). -/
def execKexp (s : State) : Host.Outcome State Fault Refusal :=
  .next (advance { s with w := expandKey s.nk.toNat s.nr.toNat s.key s.w })

end Sys2Proof.Machine
end

