-- ==== Sys2Proof/Machine/Transforms.lean ====
section
/-! DEFINITION. The seven round transforms (42_round_transforms.md R131 to R137): the State functions, and the meaning of
each micro-operation over them. -/

namespace Sys2Proof.Machine

/-! ### The State functions -/

/-- `subBytes` (R131). -/
def subBytes (st : Cells) : Cells := cellsOf fun r c => subByte (cell st r c)

/-- `invSubBytes` (R132). -/
def invSubBytes (st : Cells) : Cells := cellsOf fun r c => invSubByte (cell st r c)

/-- Column `(c + n) % 4`. -/
def columnPlus (c : Fin 4) (n : Nat) : Fin 4 := ⟨(c.val + n) % 4, by omega⟩

/-- `shiftRows`: row `r` rotates left by `r` (R133). -/
def shiftRows (st : Cells) : Cells := cellsOf fun r c => cell st r (columnPlus c r.val)

/-- `invShiftRows`: row `r` rotates right by `r` (R134). -/
def invShiftRows (st : Cells) : Cells := cellsOf fun r c => cell st r (columnPlus c (4 - r.val))

/-- `mixColumns`: each column times `MC`, products by `gfMulSimple`, rows XORed (R135). -/
def mixColumns (st : Cells) : Cells :=
  cellsOf fun r c =>
    gfMulSimple MC[r][0] (cell st 0 c) ^^^ gfMulSimple MC[r][1] (cell st 1 c) ^^^
      gfMulSimple MC[r][2] (cell st 2 c) ^^^ gfMulSimple MC[r][3] (cell st 3 c)

/-- `invMixColumns`: each column times `IMC`, products by `gfMulGeneral` (R136). -/
def invMixColumns (st : Cells) : Cells :=
  cellsOf fun r c =>
    gfMulGeneral IMC[r][0] (cell st 0 c) ^^^ gfMulGeneral IMC[r][1] (cell st 1 c) ^^^
      gfMulGeneral IMC[r][2] (cell st 2 c) ^^^ gfMulGeneral IMC[r][3] (cell st 3 c)

/-- `addRoundKey` with the round key at `base` in `W`: byte `3 - r` of word `c` meets row `r` of column `c` (R53, R137). -/
def addRoundKey (w : Schedule) (base : Nat) (st : Cells) : Cells :=
  cellsOf fun r c => cell st r c ^^^ byteOfWord (roundKeyWord w base c) (3 - r.val)

/-! ### The micro-operations -/

/-- `SUBB` (R131). -/
def execSubb (s : State) : Host.Outcome State Fault Refusal := transform subBytes s

/-- `ISUBB` (R132). -/
def execIsubb (s : State) : Host.Outcome State Fault Refusal := transform invSubBytes s

/-- `SHR` (R133). -/
def execShr (s : State) : Host.Outcome State Fault Refusal := transform shiftRows s

/-- `ISHR` (R134). -/
def execIshr (s : State) : Host.Outcome State Fault Refusal := transform invShiftRows s

/-- `MIXC` (R135). -/
def execMixc (s : State) : Host.Outcome State Fault Refusal := transform mixColumns s

/-- `IMIXC` (R136). -/
def execImixc (s : State) : Host.Outcome State Fault Refusal := transform invMixColumns s

/-- `ARK K` (R137): the round key at `rkbase(DIR, K, NR)`, on whatever `NR` holds (log entry 9). `K = 15` is
reserved always and `K > NR` for the command in progress (R73, R76, log entry 10). -/
def execArk (k : BitVec 4) (s : State) : Host.Outcome State Fault Refusal :=
  if k.toNat ≤ 14 ∧ k.toNat ≤ s.nr.toNat then transform (addRoundKey s.w (rkbase s.dir k.toNat s.nr.toNat)) s
  else .refused .reservedRoundKey

end Sys2Proof.Machine
end

