-- ==== Sys2Proof/Machine/Dispatch.lean ====
section
/-! DEFINITION. One arm per constructor of Instr, each one direct call of its meaning. -/

namespace Sys2Proof.Machine

def exec (i : Instr) (s : State) : Host.Outcome State Fault Refusal :=
  match i with
  | .enc klen blen => Sys2Proof.Machine.execEnc klen blen s
  | .dec klen blen => Sys2Proof.Machine.execDec klen blen s
  | .chklen => Sys2Proof.Machine.execChklen s
  | .kexp => Sys2Proof.Machine.execKexp s
  | .ldst => Sys2Proof.Machine.execLdst s
  | .ark k => Sys2Proof.Machine.execArk k s
  | .subb => Sys2Proof.Machine.execSubb s
  | .shr => Sys2Proof.Machine.execShr s
  | .mixc => Sys2Proof.Machine.execMixc s
  | .stst => Sys2Proof.Machine.execStst s
  | .isubb => Sys2Proof.Machine.execIsubb s
  | .ishr => Sys2Proof.Machine.execIshr s
  | .imixc => Sys2Proof.Machine.execImixc s

end Sys2Proof.Machine
end

