-- ==== Sys2Proof/Decode.lean ====
section
/-! DEFINITION. The decoder and the encoder of both formats (30_encoding.md R70 to R77, R81). The two channels never
mix: a command word always has 17 bits, a micro-operation word always 8 (R81). -/

namespace Sys2Proof

/-- An instruction word on the channel it belongs to (R81). -/
inductive InstrWord where
  /-- Format C (R70): bit 16 `DIR`, bits 15:8 `KLEN`, bits 7:0 `BLEN`. -/
  | command (w : BitVec 17)
  /-- Format U (R73): bits 7:4 `UOP`, bits 3:0 `K`. -/
  | uop (w : BitVec 8)
  deriving DecidableEq, Repr

/-- Why a word has no instruction. -/
inductive Reject where
  /-- `UOP` is 0x8, 0x9, 0xA, 0xB or 0xF (R76). -/
  | reservedUop (uop : BitVec 4)
  /-- `K ≠ 0` on a micro-operation other than `ARK` (R76). -/
  | strayOperand (w : BitVec 8)
  /-- `ARK` with `K = 15` (R76). -/
  | reservedArk
  /-- Bytes that hold no 8-bit and no 17-bit word (log entry 17). -/
  | notAWord (nbytes : Nat)
  deriving DecidableEq, Repr

/-- What a decoder answers: an instruction, or the name of what is wrong with the word. -/
inductive Decoded where
  | instr (i : Instr)
  | invalid (r : Reject)
  deriving DecidableEq, Repr

/-- R81: a micro-operation is looked up by bits 7:4 in the list of R74; a word that is absent there, or that R76
reserves, is invalid. -/
def decodeUop (w : BitVec 8) : Decoded :=
  let uop := w.extractLsb' 4 4
  let k := w.extractLsb' 0 4
  if uop = 0x3#4 then
    if k = 15#4 then .invalid .reservedArk else .instr (.ark k)
  else
    let noOperand (i : Instr) : Decoded := if k = 0#4 then .instr i else .invalid (.strayOperand w)
    match uop.toNat with
    | 0x0 => noOperand .chklen
    | 0x1 => noOperand .kexp
    | 0x2 => noOperand .ldst
    | 0x4 => noOperand .subb
    | 0x5 => noOperand .shr
    | 0x6 => noOperand .mixc
    | 0x7 => noOperand .stst
    | 0xC => noOperand .isubb
    | 0xD => noOperand .ishr
    | 0xE => noOperand .imixc
    | _ => .invalid (.reservedUop uop)

/-- R72, R81: the opcode of a command is bit 16; every one of the 2^17 words is a legal command. -/
def decodeCommand (w : BitVec 17) : Instr :=
  let klen := w.extractLsb' 8 8
  let blen := w.extractLsb' 0 8
  if w.extractLsb' 16 1 = 0#1 then .enc klen blen else .dec klen blen

/-- The decoder: total on the words of both channels. -/
def decode : InstrWord → Decoded
  | .command w => .instr (decodeCommand w)
  | .uop w => decodeUop w

/-- A micro-operation word from its two fields (R73). -/
def uopWord (uop k : BitVec 4) : InstrWord := .uop (uop ++ k)

/-- A command word from its three fields (R70). -/
def commandWord (dir : BitVec 1) (klen blen : BitVec 8) : BitVec 17 := dir ++ klen ++ blen

/-- The encoder, from the tables of R70 and R74. -/
def encode : Instr → InstrWord
  | .enc klen blen => .command (commandWord 0#1 klen blen)
  | .dec klen blen => .command (commandWord 1#1 klen blen)
  | .chklen => uopWord 0x0#4 0#4
  | .kexp => uopWord 0x1#4 0#4
  | .ldst => uopWord 0x2#4 0#4
  | .ark k => uopWord 0x3#4 k
  | .subb => uopWord 0x4#4 0#4
  | .shr => uopWord 0x5#4 0#4
  | .mixc => uopWord 0x6#4 0#4
  | .stst => uopWord 0x7#4 0#4
  | .isubb => uopWord 0xC#4 0#4
  | .ishr => uopWord 0xD#4 0#4
  | .imixc => uopWord 0xE#4 0#4

/-! ### Words as bytes, and the opcode table's rows

The hardware stores no instruction word in a memory (R62, R81); how a word lies in bytes is the model's convention
(DESIGN CHOICE, log entry 17, safe): one byte on the micro-operation channel; on the command channel three bytes, the
least significant first, with the seven bits above bit 16 zero. -/

/-- The decoder on bytes: one byte is a micro-operation, three bytes are a command (log entry 17). -/
def decodeBytes : List Byte → Decoded
  | [b] => decode (.uop b)
  | [b0, b1, b2] =>
    if b2.extractLsb' 1 7 = 0#7 then decode (.command (b2.extractLsb' 0 1 ++ b1 ++ b0))
    else .invalid (.notAWord 3)
  | bs => .invalid (.notAWord bs.length)

/-- An instruction word laid out in bytes (log entry 17). -/
def bytesOfWord : InstrWord → List Byte
  | .uop w => [w]
  | .command w => [w.extractLsb' 0 8, w.extractLsb' 8 8, (w.extractLsb' 16 1).setWidth 8]

/-- A number of `nbits` bits, numbered as the opcode table numbers them, laid out on the channel its width belongs to:
up to 8 bits the micro-operation channel, above that the command channel (log entry 17). -/
def bytesOfTableWord (nbits w : Nat) : List Byte :=
  if nbits ≤ 8 then [BitVec.ofNat 8 w]
  else [BitVec.ofNat 8 w, BitVec.ofNat 8 (w / 2 ^ 8), BitVec.ofNat 8 (w / 2 ^ 16)]

/-- The word of a table row on its channel, if it is one (log entry 17). -/
def wordOfTable (nbits w : Nat) : Option InstrWord :=
  if nbits ≤ 8 then (if w < 2 ^ 8 then some (.uop (BitVec.ofNat 8 w)) else none)
  else (if w < 2 ^ 17 then some (.command (BitVec.ofNat 17 w)) else none)

/-- The instruction the decoder reads from a row of the opcode table. -/
def decodeTableWord (nbits w : Nat) : Option Instr :=
  match decodeBytes (bytesOfTableWord nbits w) with
  | .instr i => some i
  | .invalid _ => none

end Sys2Proof
end

