-- ==== Sys2Proof/Machine/Sequencer.lean ====
section
/-! DEFINITION. The micro-programs (44_cipher_engine.md R187, R188), written with the pseudo-instructions of
30_encoding.md R80, and the sequencer's selection of the next micro-operation (R189). They are functions of `DIR` and `NR`
alone, held in no writable store (R62). -/

namespace Sys2Proof.Machine

/-- `ARK i` as a micro-operation. -/
def arkAt (i : Nat) : Instr := .ark (BitVec.ofNat 4 i)

/-- The expansion of a pseudo-instruction in a command of `nr` rounds (R80, R142 to R145). -/
def expandPseudo (nr : Nat) : Pseudo → List Instr
  | .fround i => [.subb, .shr, .mixc, arkAt i]
  | .ffinal => [.subb, .shr, arkAt nr]
  | .iround i => [.ishr, .isubb, arkAt i, .imixc]
  | .ifinal => [.ishr, .isubb, arkAt nr]

/-- The inner round `i` of a direction. -/
def innerRound (dir : Dir) (i : Nat) : Pseudo :=
  match dir with
  | .enc => .fround i
  | .dec => .iround i

/-- The final round of a direction. -/
def finalRound (dir : Dir) : Pseudo :=
  match dir with
  | .enc => .ffinal
  | .dec => .ifinal

/-- `uprog(dir, nr)`: `CHKLEN; KEXP; LDST; ARK 0`, the inner rounds `1..nr-1`, the final round, `STST` (R187, R188). For a number
of rounds that `CHKLEN` never writes the spec gives no micro-program; that the same list is taken there is the model's: at
`nr = 0`, where the table's rows overlap, it has 8 entries and not 4, and at `nr = 15` its last `ARK` is the reserved word
`0x3F` (DESIGN CHOICE, log entry 22). -/
def uprog (dir : Dir) (nr : Nat) : List Instr :=
  [.chklen, .kexp, .ldst, arkAt 0] ++
    (List.range' 1 (nr - 1)).flatMap (fun i => expandPseudo nr (innerRound dir i)) ++
    expandPseudo nr (finalRound dir) ++ [.stst]

/-- The same micro-program as the words of R74. -/
def uprogWords (dir : Dir) (nr : Nat) : List InstrWord := (uprog dir nr).map encode

/-- The word of the micro-operation at `UPC`; none once `UPC` is past the end (R189). -/
def fetchWord (s : State) : Option InstrWord := (uprogWords s.dir s.nr.toNat)[s.upc.toNat]?

end Sys2Proof.Machine
end

