-- ==== Sys2Proof/Machine/Agents.lean ====
section
/-! DEFINITION. The two agents (44_cipher_engine.md R180): the sequencer's step (R189), the host's actions, and how one
step of the whole chooses between them (DESIGN CHOICE, log entry 5). Also where an instruction is placed so that the very
next step runs it (log entry 6). -/

namespace Sys2Proof.Machine

/-! ### The sequencer -/

/-- The meaning of the instruction a word decodes to; a reserved word is refused by name (R76, U4; log entry 10). -/
def execWord (w : InstrWord) (s : State) : Host.Outcome State Fault Refusal :=
  match decode w with
  | .instr i => exec i s
  | .invalid _ => .refused .reservedWord

/-- The sequencer's step while `BUSY = 1`: the micro-operation at `UPC`, by its own rule (R189). Past the end no step is
enabled (stuck, log entry 12). -/
def sequencerStep (s : State) : Host.Outcome State Fault Refusal :=
  match fetchWord s with
  | some w => execWord w s
  | none => .fault .sequencerPastEnd

/-- The engine left to itself: the sequencer runs while `BUSY = 1`; an idle engine does nothing (R225, R240). -/
def engineStep (s : State) : Host.Outcome State Fault Refusal :=
  if s.busy then sequencerStep s else .next s

/-! ### Host and sequencer together -/

/-- One step: the host's next action if it is enabled, else the engine's. The host holds a command back while `BUSY = 1`
(R196, R247), so the sequencer moves then; reading and reset are always possible (R192, R241); with nothing to do, or
waiting, the host lets the engine move. -/
def stepAgents (s : State) : Host.Outcome State Fault Refusal :=
  match s.env.script with
  | [] => engineStep s
  | .wait :: rest => engineStep (setScript rest s)
  | .readResponse :: rest => .next (hostRead (setScript rest s))
  | .reset :: rest => .next (hostReset (setScript rest s))
  | .present cmd key blk :: rest =>
    if s.busy then engineStep s
    else execWord (.command cmd) (driveLines key blk (setScript rest s))

/-! ### Placing an instruction where the next step takes it -/

/-- The program selections that are tried for a micro-operation, in order: the one that stands, if `NK`, `NR` hold a
legal pair, then AES-256 encryption, then AES-256 decryption (log entry 6). `CHKLEN` is at index 0 of every micro-program,
before `NR` has a value (R187), and so keeps the one that stands. -/
def selections (i : Instr) (s : State) : List (Dir × BitVec 4 × BitVec 4) :=
  (if i = .chklen ∨ (variantOfRegs s.nk s.nr).isSome then [(s.dir, s.nk, s.nr)] else []) ++
    [(.enc, 8#4, 14#4), (.dec, 8#4, 14#4)]

/-- The state in which the sequencer's next step is the micro-operation `i`: the first selection whose micro-program
holds it, `UPC` at its place, `BUSY = 1`, the host waiting one step. -/
def placeUop (i : Instr) (s : State) : List (Dir × BitVec 4 × BitVec 4) → State
  | [] => s
  | (d, k, n) :: rest =>
    match (uprog d n.toNat).idxOf? i with
    | some u =>
      { s with
        busy := true
        dir := d
        nk := k
        nr := n
        upc := BitVec.ofNat 6 u
        env := { s.env with script := .wait :: s.env.script } }
    | none => placeUop i s rest

/-- The state whose next step runs the instruction of a table word: a micro-operation is placed in the micro-program, a
command stands next in the host's script with the payload already on its lines, while `BUSY = 0`. A word that R76 reserves
has no place to stand in and leaves the state as it is (R62, R76; log entry 6). -/
def placeWord (s : State) (nbits w : Nat) : State :=
  match wordOfTable nbits w with
  | none => s
  | some (.command cmd) =>
    { s with busy := false, env := { s.env with script := .present cmd s.env.key s.env.blk :: s.env.script } }
  | some (.uop b) =>
    match decodeUop b with
    | .invalid _ => s
    | .instr i => placeUop i s (selections i s)

end Sys2Proof.Machine
end

