-- ==== Sys2Proof/Machine/Step.lean ====
section
/-! DEFINITION. One step of the machine, and the placing of an instruction for it. Both call Machine/Agents.lean. -/

namespace Sys2Proof.Machine

/-- One step of the host and one engine instance (44_cipher_engine.md R180, R181, R189). -/
def step (s : State) : Host.Outcome State Fault Refusal := stepAgents s

/-- `s` with an instruction where `step` takes its next one from (log entry 6). -/
def State.withFetchWord (s : State) (nbits w : Nat) : State := placeWord s nbits w

end Sys2Proof.Machine
end

