-- ==== Sys2Proof/Machine/Assembler.lean ====
section
/-! DEFINITION. The notation of 00_scope.md R9 and 30_encoding.md R78, R79: hexadecimal byte sequences, command lines (as
their parts: the letters between them are not the engine's), and the text of a micro-operation. -/

namespace Sys2Proof.Machine

/-- The value of one hexadecimal digit. -/
def hexDigit (c : Char) : Option Nat :=
  if '0'.toNat ≤ c.toNat ∧ c.toNat ≤ '9'.toNat then some (c.toNat - '0'.toNat)
  else if 'a'.toNat ≤ c.toNat ∧ c.toNat ≤ 'f'.toNat then some (c.toNat - 'a'.toNat + 10)
  else if 'A'.toNat ≤ c.toNat ∧ c.toNat ≤ 'F'.toNat then some (c.toNat - 'A'.toNat + 10)
  else none

/-- A byte sequence from its digits: each pair is one byte, the leftmost pair at index 0 (R9). -/
def hexBytes : List Char → Option (List Byte)
  | [] => some []
  | [_] => none
  | h :: l :: rest =>
    match hexDigit h, hexDigit l, hexBytes rest with
    | some a, some b, some bs => some (BitVec.ofNat 8 (16 * a + b) :: bs)
    | _, _, _ => none

/-- A count as a command field: the number of bytes, and 255 for a longer sequence (R71; 92_eei_decisions.md D23). -/
def countField (n : Nat) : BitVec 8 := BitVec.ofNat 8 (min n 255)

/-- One command line (R78). `ENCRYPT` and `DECRYPT` are further names of `ENC` and `DEC` and give the same line. -/
inductive CommandLine where
  /-- `ENC key=…, blk=…` and `DEC key=…, blk=…`: the counts are the numbers of bytes written. -/
  | plain (dir : Dir) (key blk : List Byte)
  /-- `ENC klen=…, blen=…, key=…, blk=…`: the counts are stated. The syntax shows this form for `ENC` only; that a `DEC` line
  may state its counts too is the model's (DESIGN CHOICE, log entry 21, safe). -/
  | counted (dir : Dir) (klen blen : Nat) (key blk : List Byte)
  deriving DecidableEq, Repr

/-- The bit `DIR` of a direction (R70). -/
def dirBit : Dir → BitVec 1
  | .enc => 0#1
  | .dec => 1#1

/-- What a command line has the host do: present the command word and the payload (R78, R70). -/
def assemble : CommandLine → HostAction
  | .plain dir key blk =>
    .present (commandWord (dirBit dir) (countField key.length) (countField blk.length)) key blk
  | .counted dir klen blen key blk =>
    .present (commandWord (dirBit dir) (countField klen) (countField blen)) key blk

/-- The text of a micro-operation: the mnemonic, and for `ARK` one decimal operand (R79). A command's text has a payload
and so is not a function of its word (R78). -/
def uopText : Instr → Option String
  | .enc _ _ => none
  | .dec _ _ => none
  | .chklen => some "CHKLEN"
  | .kexp => some "KEXP"
  | .ldst => some "LDST"
  | .ark k => some ("ARK " ++ toString k.toNat)
  | .subb => some "SUBB"
  | .shr => some "SHR"
  | .mixc => some "MIXC"
  | .stst => some "STST"
  | .isubb => some "ISUBB"
  | .ishr => some "ISHR"
  | .imixc => some "IMIXC"

end Sys2Proof.Machine
end

