-- ==== Sys2Proof/Machine/BigStep.lean ====
section
/-! DEFINITION. The big-step function `Run` (44_cipher_engine.md R190): the response of a command from its five inputs. It
stands beside the machine, which runs at the small-step level; that the two agree is a statement about both. -/

namespace Sys2Proof.Machine

/-- A word file in which nothing has been written, for `Run` to expand a key into. -/
def blankSchedule : Schedule := Vector.ofFn fun i => Config.absentWord i.val

/-- Inner round `i` on the State: forward R142, inverse R144. -/
def runInner (dir : Dir) (w : Schedule) (nr : Nat) (s : Cells) (i : Nat) : Cells :=
  match dir with
  | .enc => addRoundKey w (rkbase .enc i nr) (mixColumns (shiftRows (subBytes s)))
  | .dec => invMixColumns (addRoundKey w (rkbase .dec i nr) (invSubBytes (invShiftRows s)))

/-- The final round on the State: forward R143, inverse R145. -/
def runFinal (dir : Dir) (w : Schedule) (nr : Nat) (s : Cells) : Cells :=
  match dir with
  | .enc => addRoundKey w (rkbase .enc nr nr) (shiftRows (subBytes s))
  | .dec => addRoundKey w (rkbase .dec nr nr) (invSubBytes (invShiftRows s))

/-- The State from the first round key to the last, for an expanded key (R190). -/
def runRounds (dir : Dir) (w : Schedule) (nr : Nat) (s : Cells) : Cells :=
  runFinal dir w nr ((List.range' 1 (nr - 1)).foldl (runInner dir w nr) (addRoundKey w (rkbase dir 0 nr) s))

/-- `Run(dir, klen, blen, key, din)` (R190). -/
def runCommand (dir : Dir) (klen blen : BitVec 8) (key : KeyBuffer) (din : Block) : Response :=
  match variantOfKeyLength klen with
  | none => .err .invalidKeyLength
  | some v =>
    if blen = 16#8 then
      .ok (storeCells (runRounds dir (expandKey v.nk v.nr key blankSchedule) v.nr (loadCells din)))
    else .err .invalidBlockLength

end Sys2Proof.Machine
end

