-- ==== Sys2Proof/Machine/System.lean ====
section
/-! DEFINITION. Several engine instances side by side (60_exceptions.md R224), with the open parameter `NINST` as an
argument. Each instance has its own copy of all the state; only constants are shared. -/

namespace Sys2Proof.Machine

/-- `NINST` instances, each with its own host (R224). Each has its own `freeCount`; what their registers hold while they have
no value is drawn from shared constants (DESIGN CHOICE, log entry 4). -/
abbrev Instances (ninst : Nat) := Vector State ninst

/-- Instance `j` takes one step; no other instance changes (R224). A stop of the instance stops the system's step with the
instance's own reason. -/
def stepInstance (ninst : Nat) (j : Fin ninst) (sys : Instances ninst) : Host.Outcome (Instances ninst) Fault Refusal :=
  match step sys[j] with
  | .next t => .next (sys.set j t)
  | .fault f => .fault f
  | .refused r => .refused r

end Sys2Proof.Machine
end

