-- ==== Sys2Proof/Machine/Tap.lean ====
section
/-! DEFINITION. The optional trace tap (60_exceptions.md R226), with the open parameter `TRACE` as an argument. It reads
and never writes, holds no state, and no step depends on it. -/

namespace Sys2Proof.Machine

/-- What the tap presents: the transform's name and the 16 cells of `ST` (R226). The spec gives no format; a pair is the
model's (DESIGN CHOICE, log entry 20). -/
structure TapEvent where
  transform : String
  cells : Cells
  deriving DecidableEq, Repr

/-- The seven State transforms the tap follows, by the names of R74. -/
def tapName : Instr → Option String
  | .enc _ _ => none
  | .dec _ _ => none
  | .chklen => none
  | .kexp => none
  | .ldst => none
  | .ark _ => some "ARK"
  | .subb => some "SUBB"
  | .shr => some "SHR"
  | .mixc => some "MIXC"
  | .stst => none
  | .isubb => some "ISUBB"
  | .ishr => some "ISHR"
  | .imixc => some "IMIXC"

/-- The event after the micro-operation `i` has left the state `after`; none without the tap. -/
def tapAfter (trace : Bool) (i : Instr) (after : State) : Option TapEvent :=
  if trace then (tapName i).map fun name => ⟨name, after.st⟩ else none

/-- Does the host leave this step to the engine? It does where it has nothing to do, waits, or holds a command back (R196);
reading and reset are steps of its own (log entry 5). -/
def hostYields : List HostAction → Bool
  | [] => true
  | .wait :: _ => true
  | .present _ _ _ :: _ => true
  | .readResponse :: _ => false
  | .reset :: _ => false

/-- The micro-operation that one step from `s` runs: the one at `UPC`, while `BUSY = 1` and the host leaves the step to the
sequencer (R189). -/
def microOpOfStep (s : State) : Option Instr :=
  if s.busy && hostYields s.env.script then
    match fetchWord s with
    | none => none
    | some w =>
      match decode w with
      | .instr i => some i
      | .invalid _ => none
  else none

/-- What an observer of the tap sees while the machine takes one step from `s`: the event of the micro-operation that the
step runs, if it runs one (R226). -/
def tapOfStep (trace : Bool) (s : State) : Option TapEvent :=
  match microOpOfStep s with
  | none => none
  | some i =>
    match step s with
    | .next t => tapAfter trace i t
    | .fault _ => none
    | .refused _ => none

end Sys2Proof.Machine
end

