-- ==== Sys2Proof/Safety.lean ====
section
/-! DEFINITION. What a safe state and a safe run are: the states a command in progress can be in, the invariant that rules
out states no run reaches, and runs of several steps. -/

namespace Sys2Proof.Machine

/-- A command past `CHKLEN` (10_state.md R23, R26; 44_cipher_engine.md R189): the lengths are legal, `NK` and `NR` are
the pair `CHKLEN` wrote for `KLEN`, and `UPC` stands at a micro-operation of the micro-program. -/
abbrev PastCheck (s : State) : Prop :=
  ∃ v ∈ variantOfKeyLength s.klen,
    s.blen = 16#8 ∧ s.nk.toNat = v.nk ∧ s.nr.toNat = v.nr ∧ 1 ≤ s.upc.toNat ∧ s.upc.toNat ≤ 4 * v.nr + 3

/-- What holds in every state a run reaches: no response stands while a command runs (R27), and a running command is
either at its `CHKLEN` (R181) or past it. -/
abbrev Inv (s : State) : Prop :=
  (s.busy = true → s.rvalid = false) ∧ (s.busy = true → s.upc = 0#6 ∨ PastCheck s)

/-- `n` steps that all answer a next state lead from `s` to `t`. -/
def Reaches : Nat → State → State → Prop
  | 0, s, t => s = t
  | n + 1, s, t => ∃ m, step s = .next m ∧ Reaches n m t

/-- A command has just been accepted, and the host does nothing more (R181): `BUSY = 1`, `RVALID = 0`, `UPC = 0`. -/
abbrev JustAccepted (s : State) : Prop :=
  s.busy = true ∧ s.rvalid = false ∧ s.upc = 0#6 ∧ s.env.script = []

/-- How many sequencer steps a command takes: 4*NR + 4 when it succeeds, 1 when it fails (R193). -/
def commandSteps (klen blen : BitVec 8) : Nat :=
  match variantOfKeyLength klen with
  | none => 1
  | some v => if blen = 16#8 then 4 * v.nr + 4 else 1

/-- The meanings of a list of micro-operations, one after the other, up to the first stop. -/
def execList : List Instr → State → Host.Outcome State Fault Refusal
  | [], s => .next s
  | i :: rest, s =>
    match exec i s with
    | .next t => execList rest t
    | .fault f => .fault f
    | .refused r => .refused r

end Sys2Proof.Machine
end

