-- ==== Sys2Proof/WellFormed.lean ====
section
/-! DEFINITION. Which instructions exist as words (30_encoding.md R75, R76) and which a command with `nr` rounds may
issue. -/

namespace Sys2Proof

/-- `ARK` with `K = 15` is a reserved word (R76); everything else that can be written down is an instruction: every
command word is legal (R72), and no other micro-operation has an operand (R75). -/
def Instr.wf : Instr → Bool
  | .enc _ _ => true
  | .dec _ _ => true
  | .chklen => true
  | .kexp => true
  | .ldst => true
  | .ark k => decide (k.toNat ≤ 14)
  | .subb => true
  | .shr => true
  | .mixc => true
  | .stst => true
  | .isubb => true
  | .ishr => true
  | .imixc => true

/-- For a command of `nr` rounds `ARK K` must have `0 ≤ K ≤ NR` (R75, R76). -/
def Instr.wfFor (nr : Nat) : Instr → Bool
  | .enc _ _ => true
  | .dec _ _ => true
  | .chklen => true
  | .kexp => true
  | .ldst => true
  | .ark k => decide (k.toNat ≤ 14) && decide (k.toNat ≤ nr)
  | .subb => true
  | .shr => true
  | .mixc => true
  | .stst => true
  | .isubb => true
  | .ishr => true
  | .imixc => true

/-- An inner round has an index from 1 to `NR - 1` (R80). -/
def Pseudo.wf (nr : Nat) : Pseudo → Bool
  | .fround i => decide (1 ≤ i) && decide (i + 1 ≤ nr)
  | .ffinal => true
  | .iround i => decide (1 ≤ i) && decide (i + 1 ≤ nr)
  | .ifinal => true

end Sys2Proof
end

