-- ==== Sys2Proof/Certificates/Slice0/Obligations.lean ====
section
/-! DEFINITION. The statements for the provers. None of them rests on the value of a register that the spec gives no reset
value for, and none on what a free value is. -/

open Sys2Proof Sys2Proof.Machine

/-! ### Encoding (30_encoding.md) -/

/-- Words written out from R70 and R74: each decodes to the instruction it stands for. -/
def Obligations.TableWordsDecode : Prop :=
  decode (.uop 0b00000000#8) = .instr .chklen ∧
  decode (.uop 0b00010000#8) = .instr .kexp ∧
  decode (.uop 0b00100000#8) = .instr .ldst ∧
  decode (.uop 0b00110000#8) = .instr (.ark 0#4) ∧
  decode (.uop 0b00111110#8) = .instr (.ark 14#4) ∧
  decode (.uop 0b01000000#8) = .instr .subb ∧
  decode (.uop 0b01010000#8) = .instr .shr ∧
  decode (.uop 0b01100000#8) = .instr .mixc ∧
  decode (.uop 0b01110000#8) = .instr .stst ∧
  decode (.uop 0b11000000#8) = .instr .isubb ∧
  decode (.uop 0b11010000#8) = .instr .ishr ∧
  decode (.uop 0b11100000#8) = .instr .imixc ∧
  decode (.command 0b00001000000010000#17) = .instr (.enc 16#8 16#8) ∧
  decode (.command 0b10010000000010000#17) = .instr (.dec 32#8 16#8)

/-- Decoding the encoding of a well-formed instruction gives it back, every operand at every value. -/
def Obligations.DecodeOfEncode : Prop :=
  ∀ i : Instr, i.wf = true → decode (encode i) = .instr i

/-- A word has one meaning: what decodes is well-formed and encodes to the same word. -/
def Obligations.EncodeOfDecode : Prop :=
  ∀ (w : InstrWord) (i : Instr), decode w = .instr i → i.wf = true ∧ encode i = w

/-- R70, R72: bit 16 is `DIR`, bits 15:8 are `KLEN`, bits 7:0 are `BLEN`, and every one of the 2^17 words is a
command. -/
def Obligations.EveryCommandWordIsLegal : Prop :=
  ∀ w : BitVec 17, ∃ klen blen : BitVec 8,
    w.toNat = 65536 * (w.toNat / 65536) + 256 * klen.toNat + blen.toNat ∧
    decode (.command w) = .instr (if w.toNat / 65536 = 0 then .enc klen blen else .dec klen blen)

/-- R76, U4: the reserved micro-operation words are invalid to the decoder; no micro-program holds a reserved word,
nor an `ARK K` with `K` above the `NR` of its command; and the host cannot inject a micro-operation: a command word is
never one. That no other word is invalid, so that the decoder takes `ARK K` with `K` up to 14 whatever `NR` is and
leaves `K` above `NR` to the meaning, is the model's choice (log entry 10). -/
def Obligations.ReservedWordsNeverExecute : Prop :=
  (∀ w : BitVec 8, (∃ r, decode (.uop w) = .invalid r) ↔
    (w.toNat / 16 ∈ [0x8, 0x9, 0xA, 0xB, 0xF] ∨ (w.toNat / 16 ≠ 0x3 ∧ w.toNat % 16 ≠ 0) ∨ w.toNat = 0x3F)) ∧
  (∀ (d : Dir) (v : Variant), ∀ i ∈ uprog d v.nr, i.wfFor v.nr = true ∧ i.wf = true) ∧
  (∀ w : BitVec 17, ∃ klen blen : BitVec 8,
    decode (.command w) = .instr (.enc klen blen) ∨ decode (.command w) = .instr (.dec klen blen))

/-- R71: a count of more than 255 bytes is presented as 255, and nothing is lost: the counts that select a variant,
and the one block length that is legal, are kept apart from every other length. -/
def Obligations.LengthSaturationLosesNothing : Prop :=
  ∀ n : Nat,
    ((countField n).toNat = if n ≤ 255 then n else 255) ∧
    (variantOfKeyLength (countField n) =
      if n = 16 then some .aes128 else if n = 24 then some .aes192 else if n = 32 then some .aes256 else none) ∧
    (countField n = 16#8 ↔ n = 16)

/-! ### Galois field (40_gf_arithmetic.md) -/

/-- R91: `xtime` doubles, and reduces by `0x1B` exactly when bit 7 was set. -/
def Obligations.XtimeShiftsAndReduces : Prop :=
  ∀ b : Byte,
    (b.toNat < 128 → (xtime b).toNat = 2 * b.toNat) ∧
    (128 ≤ b.toNat → xtime b = BitVec.ofNat 8 (2 * b.toNat - 256) ^^^ 0x1B#8)

/-- R95: the engine's two multipliers and `xtime` agree with the field product, and the four constants of `IMC` in
terms of `xtime`. -/
def Obligations.MultipliersAgreeWithFieldProduct : Prop :=
  (∀ b : Byte, xtime b = gmul 0x02 b) ∧
  (∀ (a : SimpleConst) (b : Byte), gfMulSimple a b = gmul a.toByte b) ∧
  (∀ a b : Byte, gfMulGeneral a b = gmul (a &&& 0x0F) b) ∧
  (∀ a ∈ ([0x09, 0x0B, 0x0D, 0x0E] : List Byte), ∀ b : Byte, gfMulGeneral a b = gmul a b) ∧
  (∀ b : Byte,
    gfMulGeneral 0x09 b = xtime (xtime (xtime b)) ^^^ b ∧
    gfMulGeneral 0x0B b = xtime (xtime (xtime b)) ^^^ xtime b ^^^ b ∧
    gfMulGeneral 0x0D b = xtime (xtime (xtime b)) ^^^ xtime (xtime b) ^^^ b ∧
    gfMulGeneral 0x0E b = xtime (xtime (xtime b)) ^^^ xtime (xtime b) ^^^ xtime b)

/-- R94: the laws of the field product. -/
def Obligations.FieldProductLaws : Prop :=
  (∀ a b : Byte, gmul a b = gmul b a) ∧
  (∀ b : Byte, gmul 0x01 b = b) ∧
  (∀ b : Byte, gmul 0x00 b = 0x00) ∧
  (∀ a b c : Byte, gmul a (b ^^^ c) = gmul a b ^^^ gmul a c) ∧
  (∀ a b c : Byte, gmul a (gmul b c) = gmul (gmul a b) c) ∧
  (∀ a b : Byte, gmul a b = 0x00 → a = 0x00 ∨ b = 0x00) ∧
  (∀ a : Byte, a ≠ 0x00 → ∃ b, gmul a b = 0x01 ∧ ∀ c, gmul a c = 0x01 → c = b)

/-! ### Tables and word operators (41_substitution_tables.md) -/

/-- R117: the two tables are mutual inverses, in both directions. -/
def Obligations.SubstitutionTablesAreInverse : Prop :=
  ∀ x : Byte, invSubByte (subByte x) = x ∧ subByte (invSubByte x) = x

/-- R110: the S-box listing is the field inverse followed by the affine map; it is a permutation, and has no fixed and
no opposite fixed point. -/
def Obligations.SboxIsInverseThenAffine : Prop :=
  (∀ x y : Byte, (gmul x y = 0x01 ∨ (x = 0x00 ∧ y = 0x00)) →
    subByte x = y ^^^ y.rotateLeft 1 ^^^ y.rotateLeft 2 ^^^ y.rotateLeft 3 ^^^ y.rotateLeft 4 ^^^ 0x63#8) ∧
  (∀ x : Byte, ∃ y : Byte, gmul x y = 0x01 ∨ (x = 0x00 ∧ y = 0x00)) ∧
  (∀ x y : Byte, subByte x = subByte y → x = y) ∧
  (∀ x : Byte, subByte x ≠ x ∧ subByte x ≠ x ^^^ 0xFF#8)

/-- R114, R115: `subWord` substitutes each byte in its place; `rotWord` moves the most significant byte to the end. -/
def Obligations.WordOperators : Prop :=
  (∀ (w : Word) (k : Nat), k < 4 → byteOfWord (subWord w) k = subByte (byteOfWord w k)) ∧
  (∀ b3 b2 b1 b0 : Byte, rotWord (packWord b3 b2 b1 b0) = packWord b2 b1 b0 b3) ∧
  (∀ w : Word, (rotWord w).toNat = (w.toNat % 2 ^ 24) * 2 ^ 8 + w.toNat / 2 ^ 24) ∧
  (∀ w : Word, rotWord (rotWord (rotWord (rotWord w))) = w)

/-- R116: ten entries; the constant is in byte 3 and each is `xtime` of the one before. -/
def Obligations.RconIsXtimeChain : Prop :=
  RCON[0] = 0x01000000#32 ∧
  (∀ j : Nat, j < 9 →
    rconAt (j + 1) = packWord (xtime (byteOfWord (rconAt j) 3)) 0x00 0x00 0x00) ∧
  (∀ j : Fin 10, rconAt j.val = RCON[j]) ∧
  (RCON[7] = 0x80000000#32 ∧ RCON[8] = 0x1B000000#32 ∧ RCON[9] = 0x36000000#32)

/-- R141: both matrices are circulant with the printed first rows, and `IMC` times `MC` is the identity over the
field. -/
def Obligations.MatricesAreCirculantInverses : Prop :=
  MC[0] = #v[.c02, .c03, .c01, .c01] ∧ IMC[0] = #v[0x0e, 0x0b, 0x0d, 0x09] ∧
  (∀ r c : Fin 4, MC[r + 1][c + 1] = MC[r][c] ∧ IMC[r + 1][c + 1] = IMC[r][c]) ∧
  (∀ r c : Fin 4,
    gmul IMC[r][0] MC[0][c].toByte ^^^ gmul IMC[r][1] MC[1][c].toByte ^^^
      gmul IMC[r][2] MC[2][c].toByte ^^^ gmul IMC[r][3] MC[3][c].toByte = if r = c then 0x01#8 else 0x00#8)

/-! ### Load, store and the byte mappings (20_memory.md, 44_cipher_engine.md) -/

/-- R183, R51: `LDST` (word `0x20`) completes in every state; cell (r, c) is byte `r + 4c` of `DIN`; nothing else
changes but `UPC`. -/
def Obligations.LdstLoadsColumnByColumn : Prop :=
  decode (.uop 0x20#8) = .instr .ldst ∧
  ∀ s : State, ∃ t, exec .ldst s = .next t ∧
    (∀ r c : Fin 4, s.din[r.val + 4 * c.val]? = some (cell t.st r c)) ∧
    t = { s with st := t.st, upc := s.upc + 1 }

/-- R184, R52, R191: `STST` (word `0x70`) completes in every state; byte `r + 4c` of `DOUT` is cell (r, c); in the
same step the command ends with `OK`; nothing else changes but `UPC`. That the end of the command is unconditional is
the model's reading (log entry 15). -/
def Obligations.StstStoresAndEndsCommand : Prop :=
  decode (.uop 0x70#8) = .instr .stst ∧
  ∀ s : State, ∃ t, exec .stst s = .next t ∧
    (∀ r c : Fin 4, t.dout[r.val + 4 * c.val]? = some (cell s.st r c)) ∧
    t = { s with dout := t.dout, status := .ok, rvalid := true, busy := false, upc := s.upc + 1 }

/-- `LDST; STST` with nothing between copies `DIN` to `DOUT`, and a block stored and loaded again is the same State.
-/ def Obligations.LoadAndStoreAreInverse : Prop := (∀ s t : State, execList [.ldst, .stst] s = .next t → t.dout =
s.din) ∧ (∀ st : Cells, loadCells (storeCells st) = st) /-- R54: a loaded column is the big-endian word of its four
bytes; `addRoundKey` is a 32-bit XOR of column word and round-key word; and the first `addRoundKey` of an AES-128
encryption XORs `DIN[j]` with `KEY[j]`. -/
def Obligations.ColumnsAreBigEndianWords : Prop :=
  (∀ (b : Block) (c : Fin 4) (h : 4 * c.val + 3 < 16),
    columnWord (loadCells b) c =
      packWord b[4 * c.val] b[4 * c.val + 1] b[4 * c.val + 2] b[4 * c.val + 3]) ∧
  (∀ (w : Schedule) (base : Nat) (st : Cells) (c : Fin 4),
    columnWord (addRoundKey w base st) c = columnWord st c ^^^ roundKeyWord w base c) ∧
  (∀ s t : State, s.dir = .enc → s.nk = 4#4 → s.nr = 10#4 → execList [.kexp, .ldst, .ark 0#4] s = .next t →
    ∀ j : Fin 16, ∀ h : j.val < 32, (storeCells t.st)[j] = s.din[j] ^^^ s.key[j.val])

/-! ### The round transforms (42_round_transforms.md) -/

/-- R131: `SUBB` (word `0x40`) completes in every state and replaces every cell by its S-box entry; nothing else
changes but `UPC`. -/
def Obligations.SubbSubstitutesEveryCell : Prop :=
  decode (.uop 0x40#8) = .instr .subb ∧
  ∀ s : State, ∃ t, exec .subb s = .next t ∧
    (∀ r c : Fin 4, SBOX[(cell s.st r c).toNat]? = some (cell t.st r c)) ∧
    t = { s with st := t.st, upc := s.upc + 1 }

/-- R132: `ISUBB` (word `0xC0`) completes in every state and replaces every cell by its inverse S-box entry; nothing
else changes but `UPC`. -/
def Obligations.IsubbSubstitutesEveryCell : Prop :=
  decode (.uop 0xC0#8) = .instr .isubb ∧
  ∀ s : State, ∃ t, exec .isubb s = .next t ∧
    (∀ r c : Fin 4, INVSBOX[(cell s.st r c).toNat]? = some (cell t.st r c)) ∧
    t = { s with st := t.st, upc := s.upc + 1 }

/-- R133: `SHR` (word `0x50`) completes in every state and rotates row `r` left by `r` (column indices modulo 4);
nothing else changes but `UPC`; four of them give the State back. -/
def Obligations.ShrRotatesRowsLeft : Prop :=
  decode (.uop 0x50#8) = .instr .shr ∧
  (∀ s : State, ∃ t, exec .shr s = .next t ∧
    (∀ r c : Fin 4, cell t.st r c = cell s.st r (c + r)) ∧
    t = { s with st := t.st, upc := s.upc + 1 }) ∧
  (∀ s : State, execList [.shr, .shr, .shr, .shr] s = .next { s with upc := s.upc + 4 })

/-- R134: `ISHR` (word `0xD0`) completes in every state and rotates row `r` right by `r` (column indices modulo 4);
nothing else changes but `UPC`; it agrees with `SHR` on rows 0 and 2. -/
def Obligations.IshrRotatesRowsRight : Prop :=
  decode (.uop 0xD0#8) = .instr .ishr ∧
  ∀ s : State, ∃ t, exec .ishr s = .next t ∧
    (∀ r c : Fin 4, cell t.st r c = cell s.st r (c - r)) ∧
    t = { s with st := t.st, upc := s.upc + 1 } ∧
    (∀ u, exec .shr s = .next u → ∀ c : Fin 4, cell u.st 0 c = cell t.st 0 c ∧ cell u.st 2 c = cell t.st 2 c)

/-- R135: `MIXC` (word `0x60`) completes in every state; each column becomes its product with `MC`, written out;
nothing else changes but `UPC`. -/
def Obligations.MixcMultipliesColumns : Prop :=
  decode (.uop 0x60#8) = .instr .mixc ∧
  ∀ s : State, ∃ t, exec .mixc s = .next t ∧
    (∀ c : Fin 4,
      let s0 := cell s.st 0 c; let s1 := cell s.st 1 c; let s2 := cell s.st 2 c; let s3 := cell s.st 3 c
      cell t.st 0 c = gfMulSimple .c02 s0 ^^^ gfMulSimple .c03 s1 ^^^ s2 ^^^ s3 ∧
      cell t.st 1 c = s0 ^^^ gfMulSimple .c02 s1 ^^^ gfMulSimple .c03 s2 ^^^ s3 ∧
      cell t.st 2 c = s0 ^^^ s1 ^^^ gfMulSimple .c02 s2 ^^^ gfMulSimple .c03 s3 ∧
      cell t.st 3 c = gfMulSimple .c03 s0 ^^^ s1 ^^^ s2 ^^^ gfMulSimple .c02 s3) ∧
    t = { s with st := t.st, upc := s.upc + 1 }

/-- R136: `IMIXC` (word `0xE0`) completes in every state; each column becomes its product with `IMC`, written out;
nothing else changes but `UPC`. -/
def Obligations.ImixcMultipliesColumns : Prop :=
  decode (.uop 0xE0#8) = .instr .imixc ∧
  ∀ s : State, ∃ t, exec .imixc s = .next t ∧
    (∀ c : Fin 4,
      let s0 := cell s.st 0 c; let s1 := cell s.st 1 c; let s2 := cell s.st 2 c; let s3 := cell s.st 3 c
      cell t.st 0 c =
        gfMulGeneral 0x0e s0 ^^^ gfMulGeneral 0x0b s1 ^^^ gfMulGeneral 0x0d s2 ^^^ gfMulGeneral 0x09 s3 ∧
      cell t.st 1 c =
        gfMulGeneral 0x09 s0 ^^^ gfMulGeneral 0x0e s1 ^^^ gfMulGeneral 0x0b s2 ^^^ gfMulGeneral 0x0d s3 ∧
      cell t.st 2 c =
        gfMulGeneral 0x0d s0 ^^^ gfMulGeneral 0x09 s1 ^^^ gfMulGeneral 0x0e s2 ^^^ gfMulGeneral 0x0b s3 ∧
      cell t.st 3 c =
        gfMulGeneral 0x0b s0 ^^^ gfMulGeneral 0x0d s1 ^^^ gfMulGeneral 0x09 s2 ^^^ gfMulGeneral 0x0e s3) ∧
    t = { s with st := t.st, upc := s.upc + 1 }

/-- R137, R163: `ARK K` (word `0x30 + K`) with `K ≤ NR` completes in every state whose `NR` is legal; column `c` meets
word `rkbase + c` of `W`, most significant byte to row 0; `W` is read inside its used words; nothing else changes but
`UPC`. -/
def Obligations.ArkAddsRoundKey : Prop :=
  (∀ k : BitVec 4, k.toNat ≤ 14 → decode (.uop (0x30#8 + k.setWidth 8)) = .instr (.ark k)) ∧
  ∀ (s : State) (k : BitVec 4), s.nr ∈ [10#4, 12#4, 14#4] → k.toNat ≤ s.nr.toNat →
    ∃ t, exec (.ark k) s = .next t ∧
      (∀ c : Fin 4, ∃ x : Word,
        s.w[(if s.dir = .enc then 4 * k.toNat else 4 * (s.nr.toNat - k.toNat)) + c.val]? = some x ∧
        cell t.st 0 c = cell s.st 0 c ^^^ x.extractLsb' 24 8 ∧
        cell t.st 1 c = cell s.st 1 c ^^^ x.extractLsb' 16 8 ∧
        cell t.st 2 c = cell s.st 2 c ^^^ x.extractLsb' 8 8 ∧
        cell t.st 3 c = cell s.st 3 c ^^^ x.extractLsb' 0 8) ∧
      t = { s with st := t.st, upc := s.upc + 1 }

/-- R162: the round key consumed at step `K` of decryption is the one consumed at step `NR - K` of encryption. -/
def Obligations.DecryptionReversesRoundKeys : Prop :=
  ∀ (s : State) (k : BitVec 4), s.nr ∈ [10#4, 12#4, 14#4] → k.toNat ≤ s.nr.toNat →
    ∃ t u, exec (.ark k) { s with dir := .dec } = .next t ∧ exec (.ark (s.nr - k)) { s with dir := .enc } = .next u ∧
      t.st = u.st

/-- Each transform undoes its partner, for every State and every round key, and substitution commutes with the row
shifts. -/
def Obligations.TransformsUndoTheirPartners : Prop :=
  (∀ st, invSubBytes (subBytes st) = st ∧ subBytes (invSubBytes st) = st) ∧
  (∀ st, invShiftRows (shiftRows st) = st ∧ shiftRows (invShiftRows st) = st) ∧
  (∀ st, invMixColumns (mixColumns st) = st ∧ mixColumns (invMixColumns st) = st) ∧
  (∀ w base st, addRoundKey w base (addRoundKey w base st) = st) ∧
  (∀ st, subBytes (shiftRows st) = shiftRows (subBytes st) ∧ subBytes (invShiftRows st) = invShiftRows (subBytes st) ∧
    invSubBytes (shiftRows st) = shiftRows (invSubBytes st) ∧
    invSubBytes (invShiftRows st) = invShiftRows (invSubBytes st))

/-- The column mixes are linear over XOR and leave a column of four equal bytes as it is. -/
def Obligations.ColumnMixesAreLinear : Prop :=
  ∀ a b : Cells,
    let sum := cellsOf fun r c => cell a r c ^^^ cell b r c
    (∀ r c, cell (mixColumns sum) r c = cell (mixColumns a) r c ^^^ cell (mixColumns b) r c) ∧
    (∀ r c, cell (invMixColumns sum) r c = cell (invMixColumns a) r c ^^^ cell (invMixColumns b) r c) ∧
    (∀ c, (∀ r, cell a r c = cell a 0 c) →
      ∀ r, cell (mixColumns a) r c = cell a r c ∧ cell (invMixColumns a) r c = cell a r c)

/-- R142 to R145: each round composition is its micro-operations in the order given, and its whole effect on the
engine is the composed State function, with the round key of the command's direction. -/
def Obligations.RoundCompositions : Prop :=
  ∀ (s : State) (i : Nat), s.nr ∈ [10#4, 12#4, 14#4] → 1 ≤ i → i + 1 ≤ s.nr.toNat →
    (s.dir = .enc →
      execList [.subb, .shr, .mixc, .ark (BitVec.ofNat 4 i)] s =
        .next { s with st := addRoundKey s.w (4 * i) (mixColumns (shiftRows (subBytes s.st))), upc := s.upc + 4 } ∧
      execList [.subb, .shr, .ark s.nr] s =
        .next { s with st := addRoundKey s.w (4 * s.nr.toNat) (shiftRows (subBytes s.st)), upc := s.upc + 3 } ∧
      expandPseudo s.nr.toNat (.fround i) = [.subb, .shr, .mixc, .ark (BitVec.ofNat 4 i)] ∧
      expandPseudo s.nr.toNat .ffinal = [.subb, .shr, .ark s.nr]) ∧
    (s.dir = .dec →
      execList [.ishr, .isubb, .ark (BitVec.ofNat 4 i), .imixc] s =
        .next { s with
          st := invMixColumns (addRoundKey s.w (4 * (s.nr.toNat - i)) (invSubBytes (invShiftRows s.st)))
          upc := s.upc + 4 } ∧
      execList [.ishr, .isubb, .ark s.nr] s =
        .next { s with st := addRoundKey s.w 0 (invSubBytes (invShiftRows s.st)), upc := s.upc + 3 } ∧
      expandPseudo s.nr.toNat (.iround i) = [.ishr, .isubb, .ark (BitVec.ofNat 4 i), .imixc] ∧
      expandPseudo s.nr.toNat .ifinal = [.ishr, .isubb, .ark s.nr])

/-! ### The key scheduler (43_key_scheduler.md) -/

/-- R160: `KEXP` (word `0x10`) completes in every state whose `NK`, `NR` are a pair that `CHKLEN` writes. The first
`NK` words are the key, packed big-endian; every later used word obeys the recurrence on the words before it; words
above the used ones are not written; nothing else changes but `UPC`. -/
def Obligations.KexpFillsScheduleByRecurrence : Prop :=
  decode (.uop 0x10#8) = .instr .kexp ∧
  ∀ s : State, (s.nk, s.nr) ∈ [(4#4, 10#4), (6#4, 12#4), (8#4, 14#4)] →
    ∃ t, exec .kexp s = .next t ∧
      (∀ i, i < s.nk.toNat → ∃ b3 b2 b1 b0 : Byte,
        s.key[4 * i]? = some b3 ∧ s.key[4 * i + 1]? = some b2 ∧ s.key[4 * i + 2]? = some b1 ∧
          s.key[4 * i + 3]? = some b0 ∧ t.w[i]? = some (packWord b3 b2 b1 b0)) ∧
      (∀ i, s.nk.toNat ≤ i → i < 4 * (s.nr.toNat + 1) → ∃ prev back : Word,
        t.w[i - 1]? = some prev ∧ t.w[i - s.nk.toNat]? = some back ∧
        (i % s.nk.toNat = 0 → ∃ rc, RCON[i / s.nk.toNat - 1]? = some rc ∧
          t.w[i]? = some (back ^^^ (subWord (rotWord prev) ^^^ rc))) ∧
        (i % s.nk.toNat ≠ 0 → 6 < s.nk.toNat → i % s.nk.toNat = 4 → t.w[i]? = some (back ^^^ subWord prev)) ∧
        (i % s.nk.toNat ≠ 0 → ¬(6 < s.nk.toNat ∧ i % s.nk.toNat = 4) → t.w[i]? = some (back ^^^ prev))) ∧
      (∀ i, 4 * (s.nr.toNat + 1) ≤ i → t.w[i]? = s.w[i]?) ∧
      t = { s with w := t.w, upc := s.upc + 1 }

/-- R166: the used words of `W` after `KEXP` are a function of the key bytes in use, `NK` and `NR`: two states that
agree on these, whatever their direction, old `W` or other key bytes, get the same words; the first `NK` of them are
the key. -/
def Obligations.ScheduleDependsOnKeyOnly : Prop :=
  ∀ s1 s2 : State, (s1.nk, s1.nr) ∈ [(4#4, 10#4), (6#4, 12#4), (8#4, 14#4)] →
    s1.nk = s2.nk → s1.nr = s2.nr → (∀ j, j < 4 * s1.nk.toNat → s1.key[j]? = s2.key[j]?) →
    ∃ t1 t2, exec .kexp s1 = .next t1 ∧ exec .kexp s2 = .next t2 ∧
      (∀ i, i < 4 * (s1.nr.toNat + 1) → t1.w[i]? = t2.w[i]?) ∧
      (∀ i, i < s1.nk.toNat → t1.w[i]? = some (keyWord s1.key i))

/-! ### Commands, the length check and its errors (44_cipher_engine.md, 60_exceptions.md) -/

/-- R181: both commands complete in every state with `BUSY = 0`, for every pair of counts: the command word and the
shown payload are latched, `BUSY`, `RVALID`, `UPC` are set, and `DOUT`, `STATUS` and the host are untouched; with
`BUSY = 1` neither has a next state. Nothing is said of what has no value then, nor of payload bytes that the host
counts but does not show. -/
def Obligations.AcceptanceLatchesTheCommand : Prop :=
  ∀ (s : State) (d : Dir) (klen blen : BitVec 8),
    (s.busy = true → ∀ t, exec (if d = .enc then .enc klen blen else .dec klen blen) s ≠ .next t) ∧
    (s.busy = false → ∃ t, exec (if d = .enc then .enc klen blen else .dec klen blen) s = .next t ∧
      t.dir = d ∧ t.klen = klen ∧ t.blen = blen ∧
      (∀ j, j < min klen.toNat 32 → j < s.env.key.length → t.key[j]? = s.env.key[j]?) ∧
      (∀ j, j < min blen.toNat 16 → j < s.env.blk.length → t.din[j]? = s.env.blk[j]?) ∧
      t.busy = true ∧ t.rvalid = false ∧ t.upc = 0#6 ∧ t.dout = s.dout ∧ t.status = s.status ∧ t.env = s.env)

/-- The model's form of an acceptance that is not enabled (log entry 8; 93_implementation_defined.md U5: stuck): `ENC`
and `DEC` executed while `BUSY = 1` stop by name. -/
def Obligations.CommandsStopWhileBusy : Prop :=
  ∀ (s : State) (klen blen : BitVec 8), s.busy = true →
    exec (.enc klen blen) s = .fault .acceptanceNotEnabled ∧ exec (.dec klen blen) s = .fault .acceptanceNotEnabled

/-- R247: one command at a time. While `BUSY = 1` a presented command is neither taken, queued nor dropped: the step
is the sequencer's own, the same as with a host that has nothing to do, and the host still presents it afterwards;
while `BUSY = 0` the presented command is accepted. -/
def Obligations.OneCommandAtATime : Prop :=
  ∀ (s : State) (cmd : BitVec 17) (key blk : List Byte) (rest : List HostAction),
    Inv s → s.env.script = .present cmd key blk :: rest →
      (s.busy = true → ∃ t, step s = .next t ∧ t.env = s.env ∧ step (setScript [] s) = .next (setScript [] t)) ∧
      (s.busy = false → ∃ t, step s = .next t ∧ t.busy = true ∧ t.upc = 0#6 ∧ t.env.script = rest)

/-- R182, R213, R214: `CHKLEN` (word `0x00`). With legal lengths it completes: it writes the pair of the key length
and advances. A wrong key length raises `InvalidKeyLength`, whatever the block length; a legal key length with a wrong
block length raises `InvalidBlockLength`; the error's code is in `STATUS`, the command is over. Nothing else changes
in any case, but for `UPC`, of which nothing is said when it raises. -/
def Obligations.ChklenChecksLengths : Prop :=
  decode (.uop 0x00#8) = .instr .chklen ∧
  (∀ s : State, s.blen = 16#8 →
    (s.klen = 16#8 → exec .chklen s = .next { s with nk := 4#4, nr := 10#4, upc := s.upc + 1 }) ∧
    (s.klen = 24#8 → exec .chklen s = .next { s with nk := 6#4, nr := 12#4, upc := s.upc + 1 }) ∧
    (s.klen = 32#8 → exec .chklen s = .next { s with nk := 8#4, nr := 14#4, upc := s.upc + 1 })) ∧
  (∀ s : State,
    (s.klen ∉ [16#8, 24#8, 32#8] →
      ∃ u, exec .chklen s = .next { s with status := .invalidKeyLength, rvalid := true, busy := false, upc := u }) ∧
    (s.klen ∈ [16#8, 24#8, 32#8] → s.blen ≠ 16#8 →
      ∃ u, exec .chklen s = .next { s with status := .invalidBlockLength, rvalid := true, busy := false, upc := u })) ∧
  (Status.code .ok = 0#2 ∧ Status.code .invalidKeyLength = 1#2 ∧ Status.code .invalidBlockLength = 2#2)

/-- "Written by" (R20): which field each instruction can change, for every instruction that answers a next state. -/
def Obligations.EachFieldHasItsWriters : Prop :=
  ∀ (i : Instr) (s t : State), exec i s = .next t →
    let command := (∃ k b, i = .enc k b) ∨ (∃ k b, i = .dec k b)
    (t.st ≠ s.st → command ∨ i ∈ [.ldst, .subb, .isubb, .shr, .ishr, .mixc, .imixc] ∨ ∃ k, i = .ark k) ∧
    (t.w ≠ s.w → command ∨ i = .kexp) ∧
    (t.nk ≠ s.nk ∨ t.nr ≠ s.nr → command ∨ i = .chklen) ∧
    (t.dir ≠ s.dir ∨ t.klen ≠ s.klen ∨ t.blen ≠ s.blen ∨ t.key ≠ s.key ∨ t.din ≠ s.din → command) ∧
    (t.dout ≠ s.dout → i = .stst) ∧
    (t.status ≠ s.status → i = .chklen ∨ i = .stst) ∧
    (t.rvalid ≠ s.rvalid ∨ t.busy ≠ s.busy → command ∨ i = .chklen ∨ i = .stst) ∧
    t.env = s.env

/-! ### The micro-programs and the sequencer -/

/-- The micro-programs, index by index, for every number of rounds from 1; their length; and the 44 words of AES-128.
For 10, 12 and 14 rounds, which `CHKLEN` writes, these are the lists of R187 and R188; that the same list is taken for
any other number is the model's choice (log entry 22), and from 16 rounds on, more than `NR` can hold, the four bits
of `K` hold the round index modulo 16. -/
def Obligations.MicroProgramsByIndex : Prop :=
  (∀ (d : Dir) (nr : Nat), 1 ≤ nr →
    (uprog d nr).length = 4 * nr + 4 ∧
    (uprog d nr)[0]? = some .chklen ∧ (uprog d nr)[1]? = some .kexp ∧ (uprog d nr)[2]? = some .ldst ∧
    (uprog d nr)[3]? = some (.ark 0#4) ∧ (uprog d nr)[4 * nr + 3]? = some .stst) ∧
  (∀ nr i : Nat, 1 ≤ i → i + 1 ≤ nr →
    (uprog .enc nr)[4 * i]? = some .subb ∧ (uprog .enc nr)[4 * i + 1]? = some .shr ∧
    (uprog .enc nr)[4 * i + 2]? = some .mixc ∧ (uprog .enc nr)[4 * i + 3]? = some (.ark (BitVec.ofNat 4 i)) ∧
    (uprog .dec nr)[4 * i]? = some .ishr ∧ (uprog .dec nr)[4 * i + 1]? = some .isubb ∧
    (uprog .dec nr)[4 * i + 2]? = some (.ark (BitVec.ofNat 4 i)) ∧ (uprog .dec nr)[4 * i + 3]? = some .imixc) ∧
  (∀ nr : Nat, 1 ≤ nr →
    (uprog .enc nr)[4 * nr]? = some .subb ∧ (uprog .enc nr)[4 * nr + 1]? = some .shr ∧
    (uprog .enc nr)[4 * nr + 2]? = some (.ark (BitVec.ofNat 4 nr)) ∧
    (uprog .dec nr)[4 * nr]? = some .ishr ∧ (uprog .dec nr)[4 * nr + 1]? = some .isubb ∧
    (uprog .dec nr)[4 * nr + 2]? = some (.ark (BitVec.ofNat 4 nr))) ∧
  (uprogWords .enc 10 =
    (([0x00, 0x10, 0x20, 0x30] ++
      ([0x31, 0x32, 0x33, 0x34, 0x35, 0x36, 0x37, 0x38, 0x39] : List Byte).flatMap (fun a => [0x40, 0x50, 0x60, a]) ++
      [0x40, 0x50, 0x3A, 0x70]) : List Byte).map .uop) ∧
  (uprogWords .dec 10 =
    (([0x00, 0x10, 0x20, 0x30] ++
      ([0x31, 0x32, 0x33, 0x34, 0x35, 0x36, 0x37, 0x38, 0x39] : List Byte).flatMap (fun a => [0xD0, 0xC0, a, 0xE0]) ++
      [0xD0, 0xC0, 0x3A, 0x70]) : List Byte).map .uop)

/-- A step runs the decoded instruction: while `BUSY = 1` and the host does not act, the one whose word stands at
`UPC` (with the host's waiting taken off its script); while `BUSY = 0`, the command the host presents, with the
payload on its lines. -/
def Obligations.StepRunsDecodedInstruction : Prop :=
  (∀ (s : State) (w : InstrWord) (i : Instr), s.busy = true → fetchWord s = some w → decode w = .instr i →
    (s.env.script = [] → step s = exec i s) ∧
    (∀ rest, s.env.script = .wait :: rest → step s = exec i (setScript rest s)) ∧
    (∀ cmd key blk rest, s.env.script = .present cmd key blk :: rest → step s = exec i s)) ∧
  (∀ (s : State) (cmd : BitVec 17) (key blk : List Byte) (rest : List HostAction) (i : Instr), s.busy = false →
    s.env.script = .present cmd key blk :: rest → decode (.command cmd) = .instr i →
      step s = exec i { s with env := { s.env with script := rest, key := key, blk := blk } })

/-- Placing an instruction's word makes the very next step run it, with nothing changed but the program's selection
(micro-operations) or `BUSY` (commands). -/
def Obligations.PlacedWordRunsNext : Prop :=
  (∀ (s : State) (i : Instr) (w : BitVec 8), i.wf = true → encode i = .uop w →
    ∃ d k n u, step (s.withFetchWord 8 w.toNat) =
      exec i { s with busy := true, dir := d, nk := k, nr := n, upc := u }) ∧
  (∀ (s : State) (i : Instr) (w : BitVec 17), encode i = .command w →
    step (s.withFetchWord 17 w.toNat) = exec i { s with busy := false })

/-- R189, R26: while `BUSY = 1` and the host does not act, a step is always enabled, and it advances `UPC` by one
inside the micro-program, or ends the command in the same step: at the end of the micro-program, or by `CHKLEN`
raising. -/
def Obligations.SequencerAdvancesOrEnds : Prop :=
  ∀ s : State, Inv s → s.busy = true → s.env.script = [] →
    ∃ t, step s = .next t ∧
      (t.busy = true → t.upc.toNat = s.upc.toNat + 1 ∧ t.upc.toNat < 4 * t.nr.toNat + 4 ∧ t.rvalid = false) ∧
      (t.busy = false → t.rvalid = true ∧
        ((t.status = .ok ∧ t.upc.toNat = s.upc.toNat + 1 ∧ t.upc.toNat = 4 * t.nr.toNat + 4) ∨
          (t.status ≠ .ok ∧ s.upc = 0#6 ∧ t.dout = s.dout)))

/-! ### Invariant and safety -/

/-- The invariant holds at reset. -/
def Obligations.ResetMeetsInvariant : Prop :=
  Inv State.reset ∧ State.reset.busy = false ∧ State.reset.rvalid = false ∧ response State.reset = none

/-- Every step keeps the invariant, from every state that meets it. -/
def Obligations.EveryStepKeepsInvariant : Prop :=
  ∀ s t : State, Inv s → step s = .next t → Inv t

/-- No step of a state that meets the invariant stops: no fault, no refusal. -/
def Obligations.NoStepStops : Prop :=
  ∀ s : State, Inv s → ∃ t, step s = .next t

/-- The hardware's two errors come from `CHKLEN` and from nothing later: a step that ends a command with an error is
the command's first. -/
def Obligations.OnlyTheFirstStepCanFail : Prop :=
  ∀ s t : State, Inv s → s.busy = true → step s = .next t → (∀ rest, s.env.script ≠ .reset :: rest) →
    (∃ e, response t = some (.err e)) →
      fetchWord s = some (.uop 0x00#8) ∧ s.upc = 0#6 ∧ (variantOfKeyLength s.klen = none ∨ s.blen ≠ 16#8)

/-! ### Host: input stability, output, reset, reading -/

/-- R248: the inputs are copied at acceptance; nothing writes the copies until the next acceptance (a host reset
apart, which abandons the command), and what the host does to its own lines while a command runs changes no step. -/
def Obligations.LatchedInputsAreStable : Prop :=
  (∀ s t : State, (s.busy = true ∨ ∀ cmd key blk rest, s.env.script ≠ .present cmd key blk :: rest) →
    step s = .next t → (∀ rest, s.env.script ≠ .reset :: rest) →
    t.dir = s.dir ∧ t.klen = s.klen ∧ t.blen = s.blen ∧ t.key = s.key ∧ t.din = s.din) ∧
  (∀ (s t : State) (key blk : List Byte), s.busy = true → s.env.script = [] → step s = .next t →
    step (driveLines key blk s) = .next (driveLines key blk t)) ∧
  (∀ (s : State) (d : Dir) (klen blen : BitVec 8), s.busy = false →
    klen.toNat = s.env.key.length → blen.toNat = s.env.blk.length →
    ∃ t, exec (if d = .enc then .enc klen blen else .dec klen blen) s = .next t ∧ t.dir = d ∧ t.klen = klen ∧
      t.blen = blen ∧ (∀ j, j < 32 → j < klen.toNat → t.key[j]? = s.env.key[j]?) ∧
      (∀ j, j < 16 → j < blen.toNat → t.din[j]? = s.env.blk[j]?))

/-- `DOUT` changes only in a step that announces it: the sequencer's `STST` ending the command with `OK`, or a host
reset, after which it has no value. -/
def Obligations.OutputChangesOnlyWhenAnnounced : Prop :=
  ∀ s t : State, step s = .next t → t.dout ≠ s.dout →
    (∃ rest, s.env.script = .reset :: rest ∧ t.rvalid = false) ∨
    (s.busy = true ∧ fetchWord s = some (.uop 0x70#8) ∧ t.busy = false ∧ t.rvalid = true ∧ t.status = .ok)

/-- R241: reset may be asserted at any time; a running command is abandoned, no response is produced, and the engine
is idle. -/
def Obligations.ResetAbandonsTheCommand : Prop :=
  ∀ (s : State) (rest : List HostAction), s.env.script = .reset :: rest →
    ∃ t, step s = .next t ∧ t.busy = false ∧ t.rvalid = false ∧ response t = none ∧
      t.env = { s.env with script := rest }

/-- R192: the response is `STATUS`, with `DOUT` when `STATUS` is `OK`, while `RVALID = 1`; reading it changes nothing
but what the host has seen; and it stays until the next command is accepted or reset. Two clauses rest on the model's
choices: that a read while `RVALID = 0` is recorded as no response (log entry 5), and that a read of an idle engine
keeps the contents of `ST`, `W`, `KEY`, `DIN`, `NK`, `NR`, `UPC` (log entry 19). -/
def Obligations.ResponseStaysReadable : Prop :=
  (∀ s : State, (s.rvalid = false → response s = none) ∧
    (s.rvalid = true → s.status = .ok → response s = some (.ok s.dout)) ∧
    (s.rvalid = true → s.status = .invalidKeyLength → response s = some (.err .invalidKeyLength)) ∧
    (s.rvalid = true → s.status = .invalidBlockLength → response s = some (.err .invalidBlockLength))) ∧
  (∀ (s : State) (rest : List HostAction), s.env.script = .readResponse :: rest →
    step s = .next { s with env := { s.env with script := rest, seen := s.env.seen ++ [response s] } }) ∧
  (∀ s t : State, Inv s → s.rvalid = true → step s = .next t →
    response t = response s ∨ (∃ rest, s.env.script = .reset :: rest) ∨
      (∃ cmd key blk rest, s.env.script = .present cmd key blk :: rest ∧ t.busy = true))

/-- An idle engine with a host that has nothing to do stays as it is: `BUSY`, `RVALID`, `STATUS`, `DOUT` and the host
by R225 and R192; that `ST`, `W`, `KEY`, `DIN`, `NK`, `NR`, `UPC` keep their contents too is the model's choice (log
entry 19: R225 lets a platform drop them), and so is the idle step itself (log entry 5). -/
def Obligations.IdleEngineStaysIdle : Prop :=
  ∀ s : State, s.busy = false → s.env.script = [] → ∀ n t, Reaches n s t → t = s

/-! ### Whole commands -/

/-- R190, R193, from a command just accepted: after exactly 4*NR + 4 steps (1 when a length is wrong) and no earlier,
the command has ended, and its response is the big-step function of the latched inputs. -/
def Obligations.SmallStepMeetsBigStep : Prop :=
  ∀ s : State, JustAccepted s →
    (∃ t, Reaches (commandSteps s.klen s.blen) s t ∧ t.busy = false ∧
      response t = some (runCommand s.dir s.klen s.blen s.key s.din)) ∧
    (∀ n m, n < commandSteps s.klen s.blen → Reaches n s m → m.busy = true ∧ response m = none)

/-- A command presented to an idle engine, whatever the engine held before: the response is `Run` of the command
word's fields and of the bytes presented. -/
def Obligations.PresentedCommandGetsItsResponse : Prop :=
  ∀ (s : State) (cmd : BitVec 17) (key blk : List Byte) (K : KeyBuffer) (B : Block) (d : Dir) (klen blen : BitVec 8),
    s.busy = false → s.env.script = [.present cmd key blk] →
    decode (.command cmd) = .instr (if d = .enc then .enc klen blen else .dec klen blen) →
    (∀ j, j < klen.toNat → j < 32 → K[j]? = key[j]?) → (∀ j, j < blen.toNat → j < 16 → B[j]? = blk[j]?) →
    ∃ t, Reaches (1 + commandSteps klen blen) s t ∧ t.busy = false ∧
      response t = some (runCommand d klen blen K B)

/-- Nothing is carried across commands: two idle engines, whatever they held, answer the same command alike. -/
def Obligations.NoResidueAcrossCommands : Prop :=
  ∀ (s1 s2 : State) (cmd : BitVec 17) (key blk : List Byte) (i : Instr) (klen blen : BitVec 8),
    s1.busy = false → s2.busy = false →
    s1.env.script = [.present cmd key blk] → s2.env.script = [.present cmd key blk] →
    decode (.command cmd) = .instr i → (i = .enc klen blen ∨ i = .dec klen blen) →
    klen.toNat ≤ key.length → blen.toNat ≤ blk.length →
    ∃ t1 t2, Reaches (1 + commandSteps klen blen) s1 t1 ∧ Reaches (1 + commandSteps klen blen) s2 t2 ∧
      t1.busy = false ∧ t2.busy = false ∧ (response t1).isSome ∧ response t1 = response t2

/-- The round trip, both ways, for every variant, key and block. -/
def Obligations.DecryptionInvertsEncryption : Prop :=
  ∀ (klen : BitVec 8) (key : KeyBuffer) (p c : Block), klen ∈ [16#8, 24#8, 32#8] →
    (runCommand .enc klen 16#8 key p = .ok c ↔ runCommand .dec klen 16#8 key c = .ok p)

/-- A command with legal lengths always succeeds, and only such a command does. -/
def Obligations.LegalLengthsAlwaysSucceed : Prop :=
  ∀ (d : Dir) (klen blen : BitVec 8) (key : KeyBuffer) (b : Block),
    (∃ c, runCommand d klen blen key b = .ok c) ↔ (klen ∈ [16#8, 24#8, 32#8] ∧ blen = 16#8)

/-- `Run` depends on the first `klen` bytes of the key buffer only. -/
def Obligations.RunReadsOnlyTheKeyBytesInUse : Prop :=
  ∀ (d : Dir) (klen blen : BitVec 8) (k1 k2 : KeyBuffer) (b : Block),
    (∀ j, j < klen.toNat → k1[j]? = k2[j]?) → runCommand d klen blen k1 b = runCommand d klen blen k2 b

/-! ### Several instances, and the trace tap (60_exceptions.md) -/

/-- Instances do not interact (R224): steps of two different instances can be taken in either order, with the same
result, and each leaves every other instance as it is. That the whole states of the two orders are equal, with the
contents of registers that have no value after an acceptance or a reset, is the model's choice (log entry 4): R224
promises equal responses. -/
def Obligations.InstancesDoNotInteract : Prop :=
  ∀ (ninst : Nat) (j k : Fin ninst) (sys a b : Instances ninst), j ≠ k →
    stepInstance ninst j sys = .next a → stepInstance ninst k a = .next b →
    (∀ l, l ≠ j → a[l] = sys[l]) ∧ step sys[j] = .next a[j] ∧
    ∃ c, stepInstance ninst k sys = .next c ∧ stepInstance ninst j c = .next b

/-- R226: the trace tap shows, under its name, the State after each of the seven State transforms, and nothing else:
nothing without the tap, nothing in a step that runs no micro-operation (an idle engine, a read, a reset), nothing
after another micro-operation. The event's form is the model's (log entry 20). -/
def Obligations.TapShowsStateTransforms : Prop :=
  ∀ s t : State, step s = .next t →
    tapOfStep false s = none ∧
    ((s.busy = false ∨ (∃ rest, s.env.script = .readResponse :: rest) ∨ (∃ rest, s.env.script = .reset :: rest)) →
      tapOfStep true s = none) ∧
    (∀ (w : InstrWord) (i : Instr), s.busy = true → (∀ rest, s.env.script ≠ .readResponse :: rest) →
      (∀ rest, s.env.script ≠ .reset :: rest) → fetchWord s = some w → decode w = .instr i →
        ((∃ name, tapOfStep true s = some ⟨name, t.st⟩) ↔
          (i ∈ [.subb, .isubb, .shr, .ishr, .mixc, .imixc] ∨ ∃ k, i = .ark k)) ∧
        (i = .subb → tapOfStep true s = some ⟨"SUBB", t.st⟩) ∧
        (i = .isubb → tapOfStep true s = some ⟨"ISUBB", t.st⟩) ∧
        (i = .shr → tapOfStep true s = some ⟨"SHR", t.st⟩) ∧
        (i = .ishr → tapOfStep true s = some ⟨"ISHR", t.st⟩) ∧
        (i = .mixc → tapOfStep true s = some ⟨"MIXC", t.st⟩) ∧
        (i = .imixc → tapOfStep true s = some ⟨"IMIXC", t.st⟩) ∧
        ((∃ k, i = .ark k) → tapOfStep true s = some ⟨"ARK", t.st⟩)) ∧
    (∀ e, tapOfStep true s = some e → e.cells = t.st)

/-! ### Register values outside those a command writes, and reserved operands -/

/-- `ARK K` with `K = 15`, or with `K` above what `NR` holds, is refused by its meaning, in every state. R76 reserves
the first word always and the second for the command in progress; that a meaning refuses them, beside the decoder that
rejects the first and takes the second, is the model's form (log entry 10). -/
def Obligations.ReservedRoundKeysAreRefused : Prop :=
  ∀ (s : State) (k : BitVec 4), k = 15#4 ∨ s.nr.toNat < k.toNat → exec (.ark k) s = .refused .reservedRoundKey

/-- `KEXP`, and `ARK K` for every `K` that is not reserved, run on whatever `NK` and `NR` hold, and take the steps of
R160 and R137 wherever the elements they name exist: the key words of step 1, the recurrence of step 2 where `NK` is
not 0, the XOR with the words of `W`; no word above those named is written; nothing else changes but `UPC`. That they
run on values `CHKLEN` never writes, and what stands where an element does not exist, is the model's choice (log entry
9). -/
def Obligations.KexpAndArkRunOnEveryRegisterValue : Prop :=
  (∀ s : State, ∃ t, exec .kexp s = .next t ∧
    (∀ i, i < s.nk.toNat → ∀ b3 b2 b1 b0 : Byte,
      s.key[4 * i]? = some b3 → s.key[4 * i + 1]? = some b2 → s.key[4 * i + 2]? = some b1 →
        s.key[4 * i + 3]? = some b0 → t.w[i]? = some (packWord b3 b2 b1 b0)) ∧
    (∀ i, s.nk ≠ 0#4 → s.nk.toNat ≤ i → i < 4 * (s.nr.toNat + 1) → i < 60 → ∃ prev back : Word,
      t.w[i - 1]? = some prev ∧ t.w[i - s.nk.toNat]? = some back ∧
      (i % s.nk.toNat = 0 → ∀ rc, RCON[i / s.nk.toNat - 1]? = some rc →
        t.w[i]? = some (back ^^^ (subWord (rotWord prev) ^^^ rc))) ∧
      (i % s.nk.toNat ≠ 0 → 6 < s.nk.toNat → i % s.nk.toNat = 4 → t.w[i]? = some (back ^^^ subWord prev)) ∧
      (i % s.nk.toNat ≠ 0 → ¬(6 < s.nk.toNat ∧ i % s.nk.toNat = 4) → t.w[i]? = some (back ^^^ prev))) ∧
    (∀ i, s.nk.toNat ≤ i → 4 * (s.nr.toNat + 1) ≤ i → t.w[i]? = s.w[i]?) ∧
    t = { s with w := t.w, upc := s.upc + 1 }) ∧
  (∀ (s : State) (k : BitVec 4), k.toNat ≤ 14 → k.toNat ≤ s.nr.toNat → ∃ t, exec (.ark k) s = .next t ∧
    (∀ (c : Fin 4) (x : Word),
      s.w[(if s.dir = .enc then 4 * k.toNat else 4 * (s.nr.toNat - k.toNat)) + c.val]? = some x →
        columnWord t.st c = columnWord s.st c ^^^ x) ∧
    t = { s with st := t.st, upc := s.upc + 1 })
end

