-- ==== Sys2Proof/Laws/Cells.lean ====
section
/-! SUPPORT. The State as a table of cells: reading, extensionality, and what each transform leaves in a cell. Later proofs
cite these and never unfold `cellsOf`. -/

namespace Sys2Proof.Machine

@[simp] theorem cell_cellsOf (f : Fin 4 → Fin 4 → Byte) (r c : Fin 4) : cell (cellsOf f) r c = f r c := by
  simp [cell, cellsOf]

/-- Two States with equal cells are equal. -/
theorem cells_ext {a b : Cells} (h : ∀ r c, cell a r c = cell b r c) : a = b := by
  apply Vector.ext
  intro r hr
  apply Vector.ext
  intro c hc
  exact h ⟨r, hr⟩ ⟨c, hc⟩

theorem cellsOf_cell (st : Cells) : cellsOf (cell st) = st := cells_ext fun r c => by simp

@[simp] theorem cell_loadCells (b : Block) (r c : Fin 4) : cell (loadCells b) r c = b[blockIndex r c] := by
  simp [loadCells]

@[simp] theorem storeCells_get (st : Cells) (r c : Fin 4) : (storeCells st)[blockIndex r c] = cell st r c := by
  have hr : (r.val + 4 * c.val) % 4 = r.val := by omega
  have hc : (r.val + 4 * c.val) / 4 = c.val := by omega
  simp [storeCells, blockIndex, hr, hc]

/-- Every block index is the index of a cell. -/
theorem blockIndex_surjective (n : Fin 16) : ∃ r c, blockIndex r c = n :=
  ⟨⟨n.val % 4, by omega⟩, ⟨n.val / 4, by omega⟩, by apply Fin.ext; simp only [blockIndex]; omega⟩

@[simp] theorem cell_subBytes (st : Cells) (r c : Fin 4) : cell (subBytes st) r c = subByte (cell st r c) := by
  simp [subBytes]

@[simp] theorem cell_invSubBytes (st : Cells) (r c : Fin 4) :
    cell (invSubBytes st) r c = invSubByte (cell st r c) := by
  simp [invSubBytes]

@[simp] theorem cell_shiftRows (st : Cells) (r c : Fin 4) :
    cell (shiftRows st) r c = cell st r (columnPlus c r.val) := by
  simp [shiftRows]

@[simp] theorem cell_invShiftRows (st : Cells) (r c : Fin 4) :
    cell (invShiftRows st) r c = cell st r (columnPlus c (4 - r.val)) := by
  simp [invShiftRows]

@[simp] theorem cell_addRoundKey (w : Schedule) (base : Nat) (st : Cells) (r c : Fin 4) :
    cell (addRoundKey w base st) r c = cell st r c ^^^ byteOfWord (roundKeyWord w base c) (3 - r.val) := by
  simp [addRoundKey]

theorem cell_mixColumns (st : Cells) (r c : Fin 4) :
    cell (mixColumns st) r c =
      gfMulSimple MC[r][0] (cell st 0 c) ^^^ gfMulSimple MC[r][1] (cell st 1 c) ^^^
        gfMulSimple MC[r][2] (cell st 2 c) ^^^ gfMulSimple MC[r][3] (cell st 3 c) := by
  simp [mixColumns]

theorem cell_invMixColumns (st : Cells) (r c : Fin 4) :
    cell (invMixColumns st) r c =
      gfMulGeneral IMC[r][0] (cell st 0 c) ^^^ gfMulGeneral IMC[r][1] (cell st 1 c) ^^^
        gfMulGeneral IMC[r][2] (cell st 2 c) ^^^ gfMulGeneral IMC[r][3] (cell st 3 c) := by
  simp [invMixColumns]

end Sys2Proof.Machine
end

