-- ==== Sys2Proof/Laws/State.lean ====
section
/-! SUPPORT. What each named update of the state leaves in each field, one lemma a field (by rfl), so that no later proof
unfolds a record update. Fields an update fills with free values have no lemma: nothing is known of them. -/

namespace Sys2Proof.Machine

/-! ### advance -/

@[simp] theorem advance_st (s : State) : (advance s).st = s.st := rfl
@[simp] theorem advance_w (s : State) : (advance s).w = s.w := rfl
@[simp] theorem advance_nk (s : State) : (advance s).nk = s.nk := rfl
@[simp] theorem advance_nr (s : State) : (advance s).nr = s.nr := rfl
@[simp] theorem advance_dir (s : State) : (advance s).dir = s.dir := rfl
@[simp] theorem advance_klen (s : State) : (advance s).klen = s.klen := rfl
@[simp] theorem advance_blen (s : State) : (advance s).blen = s.blen := rfl
@[simp] theorem advance_key (s : State) : (advance s).key = s.key := rfl
@[simp] theorem advance_din (s : State) : (advance s).din = s.din := rfl
@[simp] theorem advance_dout (s : State) : (advance s).dout = s.dout := rfl
@[simp] theorem advance_status (s : State) : (advance s).status = s.status := rfl
@[simp] theorem advance_rvalid (s : State) : (advance s).rvalid = s.rvalid := rfl
@[simp] theorem advance_busy (s : State) : (advance s).busy = s.busy := rfl
@[simp] theorem advance_upc (s : State) : (advance s).upc = s.upc + 1 := rfl
@[simp] theorem advance_env (s : State) : (advance s).env = s.env := rfl
@[simp] theorem advance_freeCount (s : State) : (advance s).freeCount = s.freeCount := rfl

/-! ### beginFlags -/

@[simp] theorem beginFlags_st (s : State) : (beginFlags s).st = s.st := rfl
@[simp] theorem beginFlags_w (s : State) : (beginFlags s).w = s.w := rfl
@[simp] theorem beginFlags_nk (s : State) : (beginFlags s).nk = s.nk := rfl
@[simp] theorem beginFlags_nr (s : State) : (beginFlags s).nr = s.nr := rfl
@[simp] theorem beginFlags_dir (s : State) : (beginFlags s).dir = s.dir := rfl
@[simp] theorem beginFlags_klen (s : State) : (beginFlags s).klen = s.klen := rfl
@[simp] theorem beginFlags_blen (s : State) : (beginFlags s).blen = s.blen := rfl
@[simp] theorem beginFlags_key (s : State) : (beginFlags s).key = s.key := rfl
@[simp] theorem beginFlags_din (s : State) : (beginFlags s).din = s.din := rfl
@[simp] theorem beginFlags_dout (s : State) : (beginFlags s).dout = s.dout := rfl
@[simp] theorem beginFlags_status (s : State) : (beginFlags s).status = s.status := rfl
@[simp] theorem beginFlags_rvalid (s : State) : (beginFlags s).rvalid = false := rfl
@[simp] theorem beginFlags_busy (s : State) : (beginFlags s).busy = true := rfl
@[simp] theorem beginFlags_upc (s : State) : (beginFlags s).upc = s.upc := rfl
@[simp] theorem beginFlags_env (s : State) : (beginFlags s).env = s.env := rfl
@[simp] theorem beginFlags_freeCount (s : State) : (beginFlags s).freeCount = s.freeCount := rfl

/-! ### endFlags -/

@[simp] theorem endFlags_st (c : Status) (s : State) : (endFlags c s).st = s.st := rfl
@[simp] theorem endFlags_w (c : Status) (s : State) : (endFlags c s).w = s.w := rfl
@[simp] theorem endFlags_nk (c : Status) (s : State) : (endFlags c s).nk = s.nk := rfl
@[simp] theorem endFlags_nr (c : Status) (s : State) : (endFlags c s).nr = s.nr := rfl
@[simp] theorem endFlags_dir (c : Status) (s : State) : (endFlags c s).dir = s.dir := rfl
@[simp] theorem endFlags_klen (c : Status) (s : State) : (endFlags c s).klen = s.klen := rfl
@[simp] theorem endFlags_blen (c : Status) (s : State) : (endFlags c s).blen = s.blen := rfl
@[simp] theorem endFlags_key (c : Status) (s : State) : (endFlags c s).key = s.key := rfl
@[simp] theorem endFlags_din (c : Status) (s : State) : (endFlags c s).din = s.din := rfl
@[simp] theorem endFlags_dout (c : Status) (s : State) : (endFlags c s).dout = s.dout := rfl
@[simp] theorem endFlags_status (c : Status) (s : State) : (endFlags c s).status = c := rfl
@[simp] theorem endFlags_rvalid (c : Status) (s : State) : (endFlags c s).rvalid = true := rfl
@[simp] theorem endFlags_busy (c : Status) (s : State) : (endFlags c s).busy = false := rfl
@[simp] theorem endFlags_upc (c : Status) (s : State) : (endFlags c s).upc = s.upc := rfl
@[simp] theorem endFlags_env (c : Status) (s : State) : (endFlags c s).env = s.env := rfl
@[simp] theorem endFlags_freeCount (c : Status) (s : State) : (endFlags c s).freeCount = s.freeCount := rfl

/-! ### raiseError -/

@[simp] theorem raiseError_st (e : LengthError) (s : State) : (raiseError e s).st = s.st := rfl
@[simp] theorem raiseError_w (e : LengthError) (s : State) : (raiseError e s).w = s.w := rfl
@[simp] theorem raiseError_nk (e : LengthError) (s : State) : (raiseError e s).nk = s.nk := rfl
@[simp] theorem raiseError_nr (e : LengthError) (s : State) : (raiseError e s).nr = s.nr := rfl
@[simp] theorem raiseError_dir (e : LengthError) (s : State) : (raiseError e s).dir = s.dir := rfl
@[simp] theorem raiseError_klen (e : LengthError) (s : State) : (raiseError e s).klen = s.klen := rfl
@[simp] theorem raiseError_blen (e : LengthError) (s : State) : (raiseError e s).blen = s.blen := rfl
@[simp] theorem raiseError_key (e : LengthError) (s : State) : (raiseError e s).key = s.key := rfl
@[simp] theorem raiseError_din (e : LengthError) (s : State) : (raiseError e s).din = s.din := rfl
@[simp] theorem raiseError_dout (e : LengthError) (s : State) : (raiseError e s).dout = s.dout := rfl
@[simp] theorem raiseError_status (e : LengthError) (s : State) : (raiseError e s).status = e.status := rfl
@[simp] theorem raiseError_rvalid (e : LengthError) (s : State) : (raiseError e s).rvalid = true := rfl
@[simp] theorem raiseError_busy (e : LengthError) (s : State) : (raiseError e s).busy = false := rfl
@[simp] theorem raiseError_upc (e : LengthError) (s : State) : (raiseError e s).upc = s.upc := rfl
@[simp] theorem raiseError_env (e : LengthError) (s : State) : (raiseError e s).env = s.env := rfl
@[simp] theorem raiseError_freeCount (e : LengthError) (s : State) : (raiseError e s).freeCount = s.freeCount := rfl

/-! ### endOk -/

@[simp] theorem endOk_st (s : State) : (endOk s).st = s.st := rfl
@[simp] theorem endOk_w (s : State) : (endOk s).w = s.w := rfl
@[simp] theorem endOk_nk (s : State) : (endOk s).nk = s.nk := rfl
@[simp] theorem endOk_nr (s : State) : (endOk s).nr = s.nr := rfl
@[simp] theorem endOk_dir (s : State) : (endOk s).dir = s.dir := rfl
@[simp] theorem endOk_klen (s : State) : (endOk s).klen = s.klen := rfl
@[simp] theorem endOk_blen (s : State) : (endOk s).blen = s.blen := rfl
@[simp] theorem endOk_key (s : State) : (endOk s).key = s.key := rfl
@[simp] theorem endOk_din (s : State) : (endOk s).din = s.din := rfl
@[simp] theorem endOk_dout (s : State) : (endOk s).dout = s.dout := rfl
@[simp] theorem endOk_status (s : State) : (endOk s).status = .ok := rfl
@[simp] theorem endOk_rvalid (s : State) : (endOk s).rvalid = true := rfl
@[simp] theorem endOk_busy (s : State) : (endOk s).busy = false := rfl
@[simp] theorem endOk_upc (s : State) : (endOk s).upc = s.upc := rfl
@[simp] theorem endOk_env (s : State) : (endOk s).env = s.env := rfl
@[simp] theorem endOk_freeCount (s : State) : (endOk s).freeCount = s.freeCount := rfl

/-! ### setScript -/

@[simp] theorem setScript_st (l : List HostAction) (s : State) : (setScript l s).st = s.st := rfl
@[simp] theorem setScript_w (l : List HostAction) (s : State) : (setScript l s).w = s.w := rfl
@[simp] theorem setScript_nk (l : List HostAction) (s : State) : (setScript l s).nk = s.nk := rfl
@[simp] theorem setScript_nr (l : List HostAction) (s : State) : (setScript l s).nr = s.nr := rfl
@[simp] theorem setScript_dir (l : List HostAction) (s : State) : (setScript l s).dir = s.dir := rfl
@[simp] theorem setScript_klen (l : List HostAction) (s : State) : (setScript l s).klen = s.klen := rfl
@[simp] theorem setScript_blen (l : List HostAction) (s : State) : (setScript l s).blen = s.blen := rfl
@[simp] theorem setScript_key (l : List HostAction) (s : State) : (setScript l s).key = s.key := rfl
@[simp] theorem setScript_din (l : List HostAction) (s : State) : (setScript l s).din = s.din := rfl
@[simp] theorem setScript_dout (l : List HostAction) (s : State) : (setScript l s).dout = s.dout := rfl
@[simp] theorem setScript_status (l : List HostAction) (s : State) : (setScript l s).status = s.status := rfl
@[simp] theorem setScript_rvalid (l : List HostAction) (s : State) : (setScript l s).rvalid = s.rvalid := rfl
@[simp] theorem setScript_busy (l : List HostAction) (s : State) : (setScript l s).busy = s.busy := rfl
@[simp] theorem setScript_upc (l : List HostAction) (s : State) : (setScript l s).upc = s.upc := rfl
@[simp] theorem setScript_env (l : List HostAction) (s : State) : (setScript l s).env = { s.env with script := l } := rfl
@[simp] theorem setScript_freeCount (l : List HostAction) (s : State) : (setScript l s).freeCount = s.freeCount := rfl

/-! ### driveLines -/

@[simp] theorem driveLines_st (k b : List Byte) (s : State) : (driveLines k b s).st = s.st := rfl
@[simp] theorem driveLines_w (k b : List Byte) (s : State) : (driveLines k b s).w = s.w := rfl
@[simp] theorem driveLines_nk (k b : List Byte) (s : State) : (driveLines k b s).nk = s.nk := rfl
@[simp] theorem driveLines_nr (k b : List Byte) (s : State) : (driveLines k b s).nr = s.nr := rfl
@[simp] theorem driveLines_dir (k b : List Byte) (s : State) : (driveLines k b s).dir = s.dir := rfl
@[simp] theorem driveLines_klen (k b : List Byte) (s : State) : (driveLines k b s).klen = s.klen := rfl
@[simp] theorem driveLines_blen (k b : List Byte) (s : State) : (driveLines k b s).blen = s.blen := rfl
@[simp] theorem driveLines_key (k b : List Byte) (s : State) : (driveLines k b s).key = s.key := rfl
@[simp] theorem driveLines_din (k b : List Byte) (s : State) : (driveLines k b s).din = s.din := rfl
@[simp] theorem driveLines_dout (k b : List Byte) (s : State) : (driveLines k b s).dout = s.dout := rfl
@[simp] theorem driveLines_status (k b : List Byte) (s : State) : (driveLines k b s).status = s.status := rfl
@[simp] theorem driveLines_rvalid (k b : List Byte) (s : State) : (driveLines k b s).rvalid = s.rvalid := rfl
@[simp] theorem driveLines_busy (k b : List Byte) (s : State) : (driveLines k b s).busy = s.busy := rfl
@[simp] theorem driveLines_upc (k b : List Byte) (s : State) : (driveLines k b s).upc = s.upc := rfl
@[simp] theorem driveLines_env (k b : List Byte) (s : State) : (driveLines k b s).env = { s.env with key := k, blk := b } := rfl
@[simp] theorem driveLines_freeCount (k b : List Byte) (s : State) : (driveLines k b s).freeCount = s.freeCount := rfl

/-! ### hostRead -/

@[simp] theorem hostRead_st (s : State) : (hostRead s).st = s.st := rfl
@[simp] theorem hostRead_w (s : State) : (hostRead s).w = s.w := rfl
@[simp] theorem hostRead_nk (s : State) : (hostRead s).nk = s.nk := rfl
@[simp] theorem hostRead_nr (s : State) : (hostRead s).nr = s.nr := rfl
@[simp] theorem hostRead_dir (s : State) : (hostRead s).dir = s.dir := rfl
@[simp] theorem hostRead_klen (s : State) : (hostRead s).klen = s.klen := rfl
@[simp] theorem hostRead_blen (s : State) : (hostRead s).blen = s.blen := rfl
@[simp] theorem hostRead_key (s : State) : (hostRead s).key = s.key := rfl
@[simp] theorem hostRead_din (s : State) : (hostRead s).din = s.din := rfl
@[simp] theorem hostRead_dout (s : State) : (hostRead s).dout = s.dout := rfl
@[simp] theorem hostRead_status (s : State) : (hostRead s).status = s.status := rfl
@[simp] theorem hostRead_rvalid (s : State) : (hostRead s).rvalid = s.rvalid := rfl
@[simp] theorem hostRead_busy (s : State) : (hostRead s).busy = s.busy := rfl
@[simp] theorem hostRead_upc (s : State) : (hostRead s).upc = s.upc := rfl
@[simp] theorem hostRead_env (s : State) : (hostRead s).env = { s.env with seen := s.env.seen ++ [response s] } := rfl
@[simp] theorem hostRead_freeCount (s : State) : (hostRead s).freeCount = s.freeCount := rfl

/-! ### acceptCommand -/

@[simp] theorem acceptCommand_dir (d : Dir) (k b : BitVec 8) (s : State) : (acceptCommand d k b s).dir = d := rfl
@[simp] theorem acceptCommand_klen (d : Dir) (k b : BitVec 8) (s : State) : (acceptCommand d k b s).klen = k := rfl
@[simp] theorem acceptCommand_blen (d : Dir) (k b : BitVec 8) (s : State) : (acceptCommand d k b s).blen = b := rfl
@[simp] theorem acceptCommand_key (d : Dir) (k b : BitVec 8) (s : State) : (acceptCommand d k b s).key = latchKey k s.env.key s.freeCount := rfl
@[simp] theorem acceptCommand_din (d : Dir) (k b : BitVec 8) (s : State) : (acceptCommand d k b s).din = latchBlock b s.env.blk s.freeCount := rfl
@[simp] theorem acceptCommand_dout (d : Dir) (k b : BitVec 8) (s : State) : (acceptCommand d k b s).dout = s.dout := rfl
@[simp] theorem acceptCommand_status (d : Dir) (k b : BitVec 8) (s : State) : (acceptCommand d k b s).status = s.status := rfl
@[simp] theorem acceptCommand_rvalid (d : Dir) (k b : BitVec 8) (s : State) : (acceptCommand d k b s).rvalid = false := rfl
@[simp] theorem acceptCommand_busy (d : Dir) (k b : BitVec 8) (s : State) : (acceptCommand d k b s).busy = true := rfl
@[simp] theorem acceptCommand_upc (d : Dir) (k b : BitVec 8) (s : State) : (acceptCommand d k b s).upc = 0 := rfl
@[simp] theorem acceptCommand_env (d : Dir) (k b : BitVec 8) (s : State) : (acceptCommand d k b s).env = s.env := rfl
@[simp] theorem acceptCommand_freeCount (d : Dir) (k b : BitVec 8) (s : State) : (acceptCommand d k b s).freeCount = s.freeCount + freeStride := rfl

/-! ### hostReset -/

@[simp] theorem hostReset_rvalid (s : State) : (hostReset s).rvalid = false := rfl
@[simp] theorem hostReset_busy (s : State) : (hostReset s).busy = false := rfl
@[simp] theorem hostReset_env (s : State) : (hostReset s).env = s.env := rfl
@[simp] theorem hostReset_freeCount (s : State) : (hostReset s).freeCount = s.freeCount + freeStride := rfl

/-! ### Reset: the two fields the spec gives a value (R33, R240) -/

@[simp] theorem reset_busy : State.reset.busy = false := rfl
@[simp] theorem reset_rvalid : State.reset.rvalid = false := rfl
@[simp] theorem reset_script : State.reset.env.script = [] := rfl

end Sys2Proof.Machine
end

