-- ==== Sys2Proof/Laws/Ops.lean ====
section
/-! SUPPORT. What each shared operation and each step can do, said once: later proofs cite these lemmas instead of
unfolding the operations. -/

namespace Sys2Proof.Machine

/-! ### The word file -/

theorem readW_writeW_same (w : Schedule) (i : Nat) (x : Word) (h : i < 60) : readW (writeW w i x) i = x := by
  simp [readW, writeW, h]

theorem readW_writeW_other (w : Schedule) (i j : Nat) (x : Word) (h : i ≠ j) :
    readW (writeW w i x) j = readW w j := by
  unfold readW writeW
  rw [Vector.getElem?_setIfInBounds_ne h]

theorem readW_of_lt (w : Schedule) (i : Nat) (h : i < 60) : readW w i = w[i] := by
  simp [readW, h]

theorem keyByte_of_lt (key : KeyBuffer) (j : Nat) (h : j < 32) : keyByte key j = key[j] := by
  simp [keyByte, h]

theorem rconAt_of_lt (j : Nat) (h : j < 10) : rconAt j = RCON[j] := by
  simp [rconAt, h]

/-! ### Parameters -/

/-- The variant of a key length, with the length (R6). -/
theorem variantOfKeyLength_cases {k : BitVec 8} {v : Variant} (h : variantOfKeyLength k = some v) :
    (k = 16#8 ∧ v = .aes128) ∨ (k = 24#8 ∧ v = .aes192) ∨ (k = 32#8 ∧ v = .aes256) := by
  unfold variantOfKeyLength at h
  split at h
  · simp_all
  · split at h
    · simp_all
    · split at h <;> simp_all

/-- The variant of the register pair, with the pair (R23). -/
theorem variantOfRegs_cases {nk nr : BitVec 4} {v : Variant} (h : variantOfRegs nk nr = some v) :
    (nk = 4#4 ∧ nr = 10#4 ∧ v = .aes128) ∨ (nk = 6#4 ∧ nr = 12#4 ∧ v = .aes192) ∨
      (nk = 8#4 ∧ nr = 14#4 ∧ v = .aes256) := by
  unfold variantOfRegs at h
  split at h
  · simp_all
  · split at h
    · simp_all
    · split at h <;> simp_all

/-- What `CHKLEN` writes reads back as the variant (R23, R182). -/
theorem variantOfRegs_written (v : Variant) :
    variantOfRegs (BitVec.ofNat 4 v.nk) (BitVec.ofNat 4 v.nr) = some v := by
  cases v <;> rfl

/-! ### The meanings that do not always do the same -/

/-- Acceptance: enabled only while `BUSY = 0` (R181). -/
theorem accept_cases (d : Dir) (k b : BitVec 8) (s : State) :
    (s.busy = true ∧ accept d k b s = .fault .acceptanceNotEnabled) ∨
      (s.busy = false ∧ accept d k b s = .next (acceptCommand d k b s)) := by
  unfold accept
  cases h : s.busy <;> simp

/-- `CHKLEN`: an error of the two, or the variant's pair written (R182). -/
theorem execChklen_cases (s : State) :
    (variantOfKeyLength s.klen = none ∧ execChklen s = .next (raiseError .invalidKeyLength s)) ∨
      (∃ v, variantOfKeyLength s.klen = some v ∧ s.blen ≠ 16#8 ∧
        execChklen s = .next (raiseError .invalidBlockLength s)) ∨
      (∃ v, variantOfKeyLength s.klen = some v ∧ s.blen = 16#8 ∧
        execChklen s = .next (advance { s with nk := BitVec.ofNat 4 v.nk, nr := BitVec.ofNat 4 v.nr })) := by
  unfold execChklen
  cases hv : variantOfKeyLength s.klen with
  | none => simp
  | some v => by_cases hb : s.blen = 16#8 <;> simp [hb]

/-- `KEXP` always completes (R160). -/
theorem execKexp_next (s : State) :
    execKexp s = .next (advance { s with w := expandKey s.nk.toNat s.nr.toNat s.key s.w }) := rfl

/-- `ARK K`: the round key added, or the refusal of a reserved `K` (R137, R76). -/
theorem execArk_cases (k : BitVec 4) (s : State) :
    ((14 < k.toNat ∨ s.nr.toNat < k.toNat) ∧ execArk k s = .refused .reservedRoundKey) ∨
      (k.toNat ≤ 14 ∧ k.toNat ≤ s.nr.toNat ∧
        execArk k s = .next (advance { s with st := addRoundKey s.w (rkbase s.dir k.toNat s.nr.toNat) s.st })) := by
  unfold execArk
  by_cases hk : k.toNat ≤ 14 ∧ k.toNat ≤ s.nr.toNat
  · exact .inr ⟨hk.1, hk.2, by simp [hk, transform]⟩
  · exact .inl ⟨by omega, if_neg hk⟩

/-! ### Steps -/

/-- The engine's own step: the micro-operation at `UPC` while it runs, nothing while it idles (R189, R225). -/
theorem engineStep_busy {s : State} (h : s.busy = true) : engineStep s = sequencerStep s := by simp [engineStep, h]

theorem engineStep_idle {s : State} (h : s.busy = false) : engineStep s = .next s := by simp [engineStep, h]

/-- The sequencer's step, where the word at `UPC` decodes (R189). -/
theorem sequencerStep_of_decode {s : State} {w : InstrWord} {i : Instr} (hf : fetchWord s = some w)
    (hd : decode w = .instr i) : sequencerStep s = exec i s := by
  simp [sequencerStep, execWord, hf, hd]

/-- Everything one step can do: the engine moves (the host waiting, or having nothing to do, or holding a command back
while `BUSY = 1`), or the host reads, resets or presents. -/
theorem step_cases (s : State) :
    (s.env.script = [] ∧ step s = engineStep s) ∨
      (∃ rest, s.env.script = .wait :: rest ∧ step s = engineStep (setScript rest s)) ∨
      (∃ rest, s.env.script = .readResponse :: rest ∧ step s = .next (hostRead (setScript rest s))) ∨
      (∃ rest, s.env.script = .reset :: rest ∧ step s = .next (hostReset (setScript rest s))) ∨
      (∃ cmd k b rest, s.env.script = .present cmd k b :: rest ∧ s.busy = true ∧ step s = sequencerStep s) ∨
      (∃ cmd k b rest, s.env.script = .present cmd k b :: rest ∧ s.busy = false ∧
        step s = exec (decodeCommand cmd) (driveLines k b (setScript rest s))) := by
  unfold step stepAgents
  split
  case h_1 h => simp [h]
  case h_2 rest h => simp [h]
  case h_3 rest h => simp [h]
  case h_4 rest h => simp [h]
  case h_5 cmd k b rest h =>
    cases hb : s.busy
    · simp [h, execWord, decode]
    · simp [h, engineStep, hb]

end Sys2Proof.Machine
end

