-- ==== Sys2Proof/Laws/PerInstr.lean ====
section
/-! SUPPORT. The statement family Channel, one lemma a constructor: the two formats never share a channel
(30_encoding.md R81). -/

namespace Sys2Proof.Laws.Channel

/-- The encoding of a command is a 17-bit word, that of a micro-operation an 8-bit word (R81). -/
def Statement (i : Instr) : Prop :=
  match i with
  | .enc _ _ => ∃ w, encode i = .command w
  | .dec _ _ => ∃ w, encode i = .command w
  | .chklen => ∃ w, encode i = .uop w
  | .kexp => ∃ w, encode i = .uop w
  | .ldst => ∃ w, encode i = .uop w
  | .ark _ => ∃ w, encode i = .uop w
  | .subb => ∃ w, encode i = .uop w
  | .shr => ∃ w, encode i = .uop w
  | .mixc => ∃ w, encode i = .uop w
  | .stst => ∃ w, encode i = .uop w
  | .isubb => ∃ w, encode i = .uop w
  | .ishr => ∃ w, encode i = .uop w
  | .imixc => ∃ w, encode i = .uop w

theorem enc (klen blen : BitVec 8) : Statement (.enc klen blen) := ⟨_, rfl⟩
theorem dec (klen blen : BitVec 8) : Statement (.dec klen blen) := ⟨_, rfl⟩
theorem chklen : Statement .chklen := ⟨_, rfl⟩
theorem kexp : Statement .kexp := ⟨_, rfl⟩
theorem ldst : Statement .ldst := ⟨_, rfl⟩
theorem ark (k : BitVec 4) : Statement (.ark k) := ⟨_, rfl⟩
theorem subb : Statement .subb := ⟨_, rfl⟩
theorem shr : Statement .shr := ⟨_, rfl⟩
theorem mixc : Statement .mixc := ⟨_, rfl⟩
theorem stst : Statement .stst := ⟨_, rfl⟩
theorem isubb : Statement .isubb := ⟨_, rfl⟩
theorem ishr : Statement .ishr := ⟨_, rfl⟩
theorem imixc : Statement .imixc := ⟨_, rfl⟩

end Sys2Proof.Laws.Channel
end

