-- ==== Sys2Proof/Laws/Schedule.lean ====
section
/-! SUPPORT. What the key expansion leaves in each word of `W` (43_key_scheduler.md R160): the key in the words of step 1, the
recurrence in those of step 2, the old contents in every other. Later proofs cite these and unfold no fold. -/

namespace Sys2Proof.Machine

/-- Writing one word an iteration, from earlier words only, leaves each written word equal to its own recipe applied to the
final contents, and every other word as it was. -/
theorem foldl_writeW (f : Schedule → Nat → Word) (n a : Nat) (w : Schedule)
    (hf : ∀ w w' i, a ≤ i → (∀ j < i, readW w j = readW w' j) → f w i = f w' i) :
    (∀ i, a ≤ i → i < a + n → i < 60 →
      readW ((List.range' a n).foldl (fun w i => writeW w i (f w i)) w) i =
        f ((List.range' a n).foldl (fun w i => writeW w i (f w i)) w) i) ∧
    (∀ i, i < a ∨ a + n ≤ i →
      readW ((List.range' a n).foldl (fun w i => writeW w i (f w i)) w) i = readW w i) := by
  induction n generalizing a w with
  | zero => exact ⟨fun i h1 h2 => by omega, fun i _ => rfl⟩
  | succ n ih =>
    rw [List.range'_succ, List.foldl_cons]
    obtain ⟨written, kept⟩ := ih (a + 1) (writeW w a (f w a)) fun w w' i h => hf w w' i (by omega)
    refine ⟨fun i h1 h2 h60 => ?_, fun i hi => ?_⟩
    · by_cases h : i = a
      · subst h
        rw [kept _ (by omega), readW_writeW_same _ _ _ h60]
        refine hf _ _ _ h1 fun j hj => ?_
        rw [kept _ (by omega), readW_writeW_other _ _ _ _ (by omega)]
      · exact written i (by omega) (by omega) h60
    · rw [kept i (by omega), readW_writeW_other _ _ _ _ (by omega)]

/-- Writing words leaves every word that no iteration names as it was, whatever is written. -/
theorem readW_foldl_other (f : Schedule → Nat → Word) (l : List Nat) (w : Schedule) {i : Nat} (h : ∀ j ∈ l, j ≠ i) :
    readW (l.foldl (fun w j => writeW w j (f w j)) w) i = readW w i := by
  induction l generalizing w with
  | nil => rfl
  | cons j l ih =>
    rw [List.foldl_cons, ih _ fun k hk => h k (List.mem_cons_of_mem _ hk),
      readW_writeW_other _ _ _ _ (h j List.mem_cons_self)]

/-- The words of step 1, after step 1. -/
theorem readW_keyed (key : KeyBuffer) (w : Schedule) (nk i : Nat) :
    (i < nk → i < 60 → readW ((List.range nk).foldl (loadKeyWord key) w) i = keyWord key i) ∧
      (nk ≤ i → readW ((List.range nk).foldl (loadKeyWord key) w) i = readW w i) := by
  have h := foldl_writeW (fun _ i => keyWord key i) nk 0 w fun _ _ _ _ _ => rfl
  rw [← List.range_eq_range'] at h
  exact ⟨fun h1 h2 => h.1 i (by omega) (by omega) h2, fun h1 => h.2 i (by omega)⟩

/-- Step 1 of R160: the first `NK` words are the key. -/
theorem expandKey_key (nk nr : Nat) (key : KeyBuffer) (w : Schedule) {i : Nat} (hi : i < nk) (h60 : i < 60) :
    readW (expandKey nk nr key w) i = keyWord key i := by
  refine (readW_foldl_other (fun w i => readW w (i - nk) ^^^ scheduleTemp nk i (readW w (i - 1))) _ _
    fun j hj => ?_).trans ((readW_keyed key w nk i).1 hi h60)
  rw [List.mem_range'_1] at hj
  omega

/-- Step 2 of R160: each later used word by the recurrence, where `NK` is not 0. -/
theorem expandKey_recurrence (nk nr : Nat) (key : KeyBuffer) (w : Schedule) {i : Nat} (hnk : 0 < nk) (h1 : nk ≤ i)
    (h2 : i < 4 * (nr + 1)) (h60 : i < 60) :
    readW (expandKey nk nr key w) i =
      readW (expandKey nk nr key w) (i - nk) ^^^
        scheduleTemp nk i (readW (expandKey nk nr key w) (i - 1)) :=
  (foldl_writeW (fun w i => readW w (i - nk) ^^^ scheduleTemp nk i (readW w (i - 1)))
    (4 * (nr + 1) - nk) nk ((List.range nk).foldl (loadKeyWord key) w)
    fun w w' j h1 h2 => by rw [h2 _ (by omega), h2 _ (by omega)]).1 i h1 (by omega) h60

/-- The words above those `KEXP` uses keep what they held (R160). -/
theorem expandKey_above (nk nr : Nat) (key : KeyBuffer) (w : Schedule) {i : Nat} (h1 : nk ≤ i) (h2 : 4 * (nr + 1) ≤ i) :
    readW (expandKey nk nr key w) i = readW w i := by
  refine (readW_foldl_other (fun w i => readW w (i - nk) ^^^ scheduleTemp nk i (readW w (i - 1))) _ _
    fun j hj => ?_).trans ((readW_keyed key w nk i).2 h1)
  rw [List.mem_range'_1] at hj
  omega

end Sys2Proof.Machine
end

