-- ==== Sys2Proof/Tests/Slice0.lean ====
section
/-! SUPPORT. Tests of the model, each with its expected result from the spec (95_test_vectors.md, 96_test_traces.md, or the
example of the rule it names), the smoke tests of WellFormed, and a witness for the hypotheses of each statement. -/

namespace Sys2Proof.Tests

open Sys2Proof.Machine

/-! ### Helpers -/

/-- A block from its 16 bytes. -/
def blk (bytes : List Byte) : Block := Vector.ofFn fun i => bytes.getD i.val 0

/-- A key buffer from its first bytes, the rest zero. -/
def kbuf (bytes : List Byte) : KeyBuffer := Vector.ofFn fun i => bytes.getD i.val 0

/-- A State as the spec prints it: column after column (R9). -/
def cells (bytes : List Byte) : Cells := loadCells (blk bytes)

/-- Does the outcome answer a next state of which `p` holds? -/
def nextHas (p : State → Bool) : Host.Outcome State Fault Refusal → Bool
  | .next t => p t
  | .fault _ => false
  | .refused _ => false

/-- Does the outcome stop with this fault? -/
def faultIs (f : Fault) : Host.Outcome State Fault Refusal → Bool
  | .next _ => false
  | .fault g => decide (g = f)
  | .refused _ => false

/-- Does the outcome stop with this refusal? -/
def refusalIs (r : Refusal) : Host.Outcome State Fault Refusal → Bool
  | .next _ => false
  | .fault _ => false
  | .refused q => decide (q = r)

/-- A running AES-128 command at index `u` of its micro-program, past `CHKLEN` when `1 ≤ u`. -/
def running (d : Dir) (u : BitVec 6) : State :=
  { State.reset with dir := d, klen := 16, blen := 16, nk := 4, nr := 10, busy := true, upc := u }

/-- A file of words from a list, the rest zero. -/
def words (ws : List Word) : Schedule := Vector.ofFn fun i => ws.getD i.val 0

def pt : List Byte :=
  [0x00, 0x11, 0x22, 0x33, 0x44, 0x55, 0x66, 0x77, 0x88, 0x99, 0xaa, 0xbb, 0xcc, 0xdd, 0xee, 0xff]

def upTo (n : Nat) : List Byte := (List.range n).map (BitVec.ofNat 8)

/-! ### WellFormed: an ill-formed term for each check, and the last well-formed one beside it -/

theorem test_wf_refuses_ark15 : (Instr.ark 15#4).wf = false := by decide
theorem test_wf_takes_ark14 : (Instr.ark 14#4).wf = true := by decide
theorem test_wfFor_refuses_ark11_of_10 : (Instr.ark 11#4).wfFor 10 = false := by decide
theorem test_wfFor_refuses_ark15 : (Instr.ark 15#4).wfFor 15 = false := by decide
theorem test_wfFor_takes_ark10_of_10 : (Instr.ark 10#4).wfFor 10 = true := by decide
theorem test_pseudo_refuses_round0 : (Pseudo.fround 0).wf 10 = false ∧ (Pseudo.iround 0).wf 10 = false := by decide
theorem test_pseudo_refuses_round_nr : (Pseudo.fround 10).wf 10 = false ∧ (Pseudo.iround 10).wf 10 = false := by decide
theorem test_pseudo_takes_last : (Pseudo.fround 9).wf 10 = true ∧ (Pseudo.iround 1).wf 10 = true := by decide

/-! ### Decoding: words written out bit by bit from R70, R73, R74; reserved words from R76 -/

theorem test_decode_enc : decode (.command 0b00001000000010000#17) = .instr (.enc 16 16) := by decide
theorem test_decode_enc_word_e14 : decode (.command 0x01414#17) = .instr (.enc 20 20) := by decide
theorem test_decode_dec : decode (.command 0b10010000011111111#17) = .instr (.dec 32 255) := by decide
theorem test_decode_chklen : decode (.uop 0b00000000#8) = .instr .chklen := by decide
theorem test_decode_kexp : decode (.uop 0b00010000#8) = .instr .kexp := by decide
theorem test_decode_ldst : decode (.uop 0b00100000#8) = .instr .ldst := by decide
theorem test_decode_ark : decode (.uop 0b00111010#8) = .instr (.ark 10) := by decide
theorem test_decode_subb : decode (.uop 0b01000000#8) = .instr .subb := by decide
theorem test_decode_shr : decode (.uop 0b01010000#8) = .instr .shr := by decide
theorem test_decode_mixc : decode (.uop 0b01100000#8) = .instr .mixc := by decide
theorem test_decode_stst : decode (.uop 0b01110000#8) = .instr .stst := by decide
theorem test_decode_isubb : decode (.uop 0b11000000#8) = .instr .isubb := by decide
theorem test_decode_ishr : decode (.uop 0b11010000#8) = .instr .ishr := by decide
theorem test_decode_imixc : decode (.uop 0b11100000#8) = .instr .imixc := by decide
theorem test_decode_reserved_uop : decode (.uop 0x80#8) = .invalid (.reservedUop 8) := by decide
theorem test_decode_reserved_uopF : decode (.uop 0xF3#8) = .invalid (.reservedUop 15) := by decide
theorem test_decode_stray_operand : decode (.uop 0x41#8) = .invalid (.strayOperand 0x41) := by decide
theorem test_decode_ark15 : decode (.uop 0x3F#8) = .invalid .reservedArk := by decide
theorem test_decode_bytes : decodeBytes (bytesOfWord (.command 0x12010#17)) = .instr (.dec 32 16) := by decide
theorem test_decode_no_word : decodeBytes [0, 0] = .invalid (.notAWord 2) := by decide
theorem test_table_dec : decodeTableWord 17 0x11810 = some (.dec 24 16) := by decide
theorem test_table_ark : decodeTableWord 8 0x3E = some (.ark 14) := by decide
theorem test_table_reserved : decodeTableWord 8 0x90 = none := by decide

/-! ### Galois field: the tables of 95_test_vectors.md section 2 -/

theorem test_xtime : xtime 0x57 = 0xae ∧ xtime 0xae = 0x47 ∧ xtime 0x80 = 0x1b ∧ xtime 0x8d = 0x01 := by decide
theorem test_gfMulSimple : gfMulSimple .c03 0xbf = 0xda ∧ gfMulSimple .c02 0xd4 = 0xb3 ∧ gfMulSimple .c01 0x5d = 0x5d := by
  decide
theorem test_gfMulGeneral : gfMulGeneral 0x09 0x80 = 0xec ∧ gfMulGeneral 0x0b 0xff = 0xa3 ∧
    gfMulGeneral 0x0d 0x4d = 0x3c ∧ gfMulGeneral 0x0e 0x57 = 0x67 := by decide
theorem test_gfMulGeneral_high_nibble : gfMulGeneral 0x13 0x57 = 0xf9 ∧ gfMulGeneral 0xf0 0xff = 0x00 := by decide
theorem test_gmul : gmul 0x57 0x13 = 0xfe ∧ gmul 0x57 0x83 = 0xc1 ∧ gmul 0x53 0xca = 0x01 := by decide

/-! ### Tables and word operators: 95_test_vectors.md section 4.1 -/

theorem test_subByte : subByte 0x53 = 0xed ∧ subByte 0x00 = 0x63 ∧ subByte 0xff = 0x16 ∧ subByte 0x52 = 0x00 := by
  decide +kernel
theorem test_invSubByte : invSubByte 0xed = 0x53 ∧ invSubByte 0xc6 = 0xc7 ∧ invSubByte 0xff = 0x7d := by decide +kernel
theorem test_subWord : subWord (rotWord 0x09cf4f3c) = 0x8a84eb01 ∧ subWord 0x01020304 = 0x7c777bf2 := by decide +kernel
theorem test_rotWord : rotWord 0x01020304 = 0x02030401 := by decide

/-! ### The round transforms: the states at the head of 42_round_transforms.md, and 95_test_vectors.md section 4 -/

/-- The State after `ARK 0` of V1. -/
def afterArk0 : Cells :=
  cells [0x00, 0x10, 0x20, 0x30, 0x40, 0x50, 0x60, 0x70, 0x80, 0x90, 0xa0, 0xb0, 0xc0, 0xd0, 0xe0, 0xf0]

/-- `SUBB` and `ISUBB` (R131, R132). -/
theorem test_subb : nextHas (fun t => decide (t.st = cells
      [0x63, 0xca, 0xb7, 0x04, 0x09, 0x53, 0xd0, 0x51, 0xcd, 0x60, 0xe0, 0xe7, 0xba, 0x70, 0xe1, 0x8c]))
    (exec .subb { running .enc 4 with st := afterArk0 }) = true := by
  decide +kernel
theorem test_isubb : nextHas (fun t => decide (t.st = cells
      [0x52, 0x7c, 0x54, 0x08, 0x72, 0x6c, 0x90, 0xd0, 0x3a, 0x96, 0x47, 0xfc, 0x1f, 0x60, 0xa0, 0x17]))
    (exec .isubb { running .dec 5 with st := afterArk0 }) = true := by
  decide +kernel

/-- `SHR` and `ISHR` on the State whose byte `n` is `n` (95_test_vectors.md 4.2). -/
theorem test_shr : nextHas (fun t => decide (t.st = cells [0, 5, 10, 15, 4, 9, 14, 3, 8, 13, 2, 7, 12, 1, 6, 11]))
    (exec .shr { running .enc 5 with st := cells (upTo 16) }) = true := by decide +kernel
theorem test_ishr : nextHas (fun t => decide (t.st = cells [0, 13, 10, 7, 4, 1, 14, 11, 8, 5, 2, 15, 12, 9, 6, 3]))
    (exec .ishr { running .dec 4 with st := cells (upTo 16) }) = true := by decide +kernel

/-- `MIXC` and `IMIXC` (95_test_vectors.md 4.3: the last State of the table). -/
theorem test_mixc : nextHas (fun t => decide (t.st = cells
      [0x02, 0x07, 0x00, 0x05, 0x06, 0x03, 0x04, 0x01, 0x0a, 0x0f, 0x08, 0x0d, 0x0e, 0x0b, 0x0c, 0x09]))
    (exec .mixc { running .enc 6 with st := cells (upTo 16) }) = true := by decide +kernel
theorem test_imixc : nextHas (fun t => decide (t.st = cells
      [0x0a, 0x0f, 0x08, 0x0d, 0x0e, 0x0b, 0x0c, 0x09, 0x02, 0x07, 0x00, 0x05, 0x06, 0x03, 0x04, 0x01]))
    (exec .imixc { running .dec 7 with st := cells (upTo 16) }) = true := by decide +kernel

/-- `ARK 1` of V1 (R137), and the index it reads for `DEC` (R163: `W[36..39]`). -/
theorem test_ark_enc : nextHas (fun t => decide (t.st = cells
      [0x89, 0xd8, 0x10, 0xe8, 0x85, 0x5a, 0xce, 0x68, 0x2d, 0x18, 0x43, 0xd8, 0xcb, 0x12, 0x8f, 0xe4]) &&
      decide (t.upc = 8))
    (exec (.ark 1) { running .enc 7 with
      w := words [0, 0, 0, 0, 0xd6aa74fd, 0xd2af72fa, 0xdaa678f1, 0xd6ab76fe]
      st := cells
        [0x5f, 0x72, 0x64, 0x15, 0x57, 0xf5, 0xbc, 0x92, 0xf7, 0xbe, 0x3b, 0x29, 0x1d, 0xb9, 0xf9, 0x1a] }) = true := by
  decide +kernel
theorem test_ark_dec : nextHas (fun t => decide (columnWord t.st 0 = 0x24252627 ∧ columnWord t.st 3 = 0x27262524))
    (exec (.ark 1) { running .dec 6 with
      w := words (List.replicate 36 0 ++ [0x24252627, 0, 0, 0x27262524]) }) = true := by decide +kernel
theorem test_ark_above_nr_refused :
    refusalIs .reservedRoundKey (exec (.ark 11) (running .enc 7)) = true := by decide
/-- `ARK 15` is reserved whatever `NR` holds (R76, U4). -/
theorem test_ark15_refused : refusalIs .reservedRoundKey (exec (.ark 15) { State.reset with nr := 15 }) = true := by decide
/-- `ARK` and `KEXP` run on values of `NR`, `NK` that `CHKLEN` never writes (log entry 9). By hand from R160 with `NK = 1`,
`NR = 0`: `W[1] = 01020304 ^ subWord(02030401) ^ 01000000`, and `W[4]` is not written. -/
theorem test_ark_runs_on_any_nr : nextHas (fun t => decide (cell t.st 0 0 = 0x24))
    (exec (.ark 1) { State.reset with nr := 1, w := words [0, 0, 0, 0, 0x24000000] }) = true := by decide +kernel
theorem test_kexp_runs_on_any_nk :
    nextHas (fun t => decide (readW t.w 0 = 0x01020304 ∧ readW t.w 1 = 0x7779f178 ∧ readW t.w 4 = 7))
    (exec .kexp { State.reset with nk := 1, nr := 0, w := Vector.replicate 60 7, key := kbuf [1, 2, 3, 4] }) = true := by
  decide +kernel

/-! ### The key scheduler: 95_test_vectors.md section 3 -/

/-- K4 (AES-128): the first expanded word, the last, and no word above it. -/
theorem test_kexp_128 : nextHas (fun t => decide (readW t.w 4 = 0xa0fafe17 ∧ readW t.w 43 = 0xb6630ca6 ∧ readW t.w 44 = 7))
    (exec .kexp { running .enc 1 with
      w := Vector.replicate 60 7
      key := kbuf [0x2b, 0x7e, 0x15, 0x16, 0x28, 0xae, 0xd2, 0xa6, 0xab, 0xf7, 0x15, 0x88, 0x09, 0xcf, 0x4f, 0x3c] }) =
    true := by decide +kernel
/-- K2 (AES-192) and K3 (AES-256): an ordinary word, the `subWord` branch, the last words. -/
theorem test_kexp_192 : nextHas (fun t => decide (readW t.w 10 = 0x4856e2e9 ∧ readW t.w 51 = 0xe3a41d5d))
    (exec .kexp { running .enc 1 with nk := 6, nr := 12, key := kbuf (upTo 24) }) = true := by decide +kernel
theorem test_kexp_256 : nextHas (fun t => decide (readW t.w 12 = 0x1651a8cd ∧ readW t.w 59 = 0x6d68de36))
    (exec .kexp { running .enc 1 with nk := 8, nr := 14, key := kbuf (upTo 32) }) = true := by decide +kernel

/-! ### Commands, length check, load and store -/

/-- `ENC` with 20 key bytes and a 16-byte block (P3): accepted, the first 20 bytes of `KEY` latched. -/
theorem test_enc_accepts : nextHas (fun t => decide (t.key[19] = 19 ∧ t.klen = 20 ∧ t.din[15] = 0xff ∧ t.busy = true))
    (exec (.enc 20 16) { State.reset with env := ⟨[], upTo 20, pt, []⟩ }) = true := by decide +kernel
/-- `DEC` with 33 and 17 bytes presented (P3): the rest is dropped. -/
theorem test_dec_accepts : nextHas (fun t => decide (t.dir = .dec ∧ t.key[31] = 31 ∧ t.din[15] = 15 ∧ t.upc = 0))
    (exec (.dec 33 17) { State.reset with env := ⟨[], upTo 33, upTo 17, []⟩, upc := 44 }) = true := by decide +kernel
theorem test_enc_busy_stops : faultIs .acceptanceNotEnabled (exec (.enc 16 16) (running .enc 4)) = true := by decide

/-- `CHKLEN` (R182): `KLEN = 24, BLEN = 16` writes 6, 12; both lengths wrong is the key-length error (E16). -/
theorem test_chklen_192 : nextHas (fun t => decide (t.nk = 6 ∧ t.nr = 12 ∧ t.upc = 1 ∧ t.busy = true))
    (exec .chklen { running .enc 0 with klen := 24, nk := 0, nr := 0 }) = true := by decide
theorem test_chklen_both_wrong : nextHas (fun t => decide (t.status = .invalidKeyLength ∧ t.rvalid = true ∧ t.busy = false))
    (exec .chklen { running .enc 0 with klen := 8, blen := 8 }) = true := by decide

/-- `LDST` (R183 example) and `STST` (R184: `DOUT[1]` is row 1 of column 0, and the command ends). -/
theorem test_ldst : nextHas (fun t => decide (cell t.st 0 1 = 0x44 ∧ cell t.st 1 0 = 0x11 ∧ cell t.st 3 3 = 0xff))
    (exec .ldst { running .enc 2 with din := blk pt }) = true := by decide +kernel
theorem test_stst : nextHas (fun t => decide (t.dout = blk pt ∧ t.status = .ok ∧ t.rvalid = true ∧ t.upc = 44))
    (exec .stst { running .enc 43 with st := cells pt, status := .invalidKeyLength }) = true := by decide +kernel

/-! ### Steps, placing, notation -/

/-- The bytes of an AES-128 micro-program at three indices (R187, R188). -/
theorem test_uprog_words : (uprogWords .enc 10)[7]? = some (.uop 0x31) ∧ (uprogWords .dec 10)[6]? = some (.uop 0x31) ∧
    (uprogWords .enc 14)[59]? = some (.uop 0x70) := by decide
/-- The first step after reset runs a placed word (`ISHR`, then `DEC`). -/
theorem test_place_uop : nextHas (fun t => decide (t.st = State.reset.st ∧ t.dir = .dec ∧ t.upc = 5))
    (step (State.reset.withFetchWord 8 0xD0)) = true := by decide +kernel
theorem test_place_command : nextHas (fun t => decide (t.dir = .dec ∧ t.klen = 32 ∧ t.busy = true))
    (step (State.reset.withFetchWord 17 0x12010)) = true := by decide +kernel
theorem test_hex : hexBytes ['2', 'b', '7', 'E'] = some [0x2b, 0x7e] := by decide
theorem test_assemble : assemble (.plain .dec (upTo 32) pt) = .present 0x12010 (upTo 32) pt := by decide
theorem test_ark_text : uopText (.ark 10) = some "ARK 10" := by decide
/-- V1 and V4 by the big-step function (95_test_vectors.md 1.1). -/
theorem test_run_v1 : runCommand .enc 16 16 (kbuf (upTo 16)) (blk pt) = .ok (blk
      [0x69, 0xc4, 0xe0, 0xd8, 0x6a, 0x7b, 0x04, 0x30, 0xd8, 0xcd, 0xb7, 0x80, 0x70, 0xb4, 0xc5, 0x5a]) := by
  decide +kernel
theorem test_run_v6 : runCommand .dec 32 16 (kbuf (upTo 32)) (blk
      [0x8e, 0xa2, 0xb7, 0xca, 0x51, 0x67, 0x45, 0xbf, 0xea, 0xfc, 0x49, 0x90, 0x4b, 0x49, 0x60, 0x89]) =
    .ok (blk pt) := by
  decide +kernel

/-! ### Witnesses: states and operands that meet the hypotheses of each statement, at the ends of their ranges -/

/-- A host that presents one command, and an idle engine. -/
def presenting (cmd : BitVec 17) (key blk : List Byte) : State :=
  { State.reset with env := ⟨[.present cmd key blk], [], [], []⟩ }

theorem witness_DecodeOfEncode : (Instr.ark 14).wf = true ∧ (Instr.dec 255 255).wf = true := by decide
theorem witness_EncodeOfDecode : decode (.uop 0x3E) = .instr (.ark 14) ∧ decode (.command 0x1FFFF) = .instr (.dec 255 255) := by
  decide
theorem witness_ReservedWordsNeverExecute :
    arkAt 14 ∈ uprog .dec Variant.aes256.nr ∧ decode (.uop 0x3F) = .invalid .reservedArk := by
  decide +kernel
theorem witness_ReservedRoundKeysAreRefused : (running .enc 3).nr.toNat < (11#4).toNat ∧
    State.reset.nr.toNat < (1#4).toNat ∧ (14#4).toNat < (15#4).toNat ∧ (15#4 = 15#4 ∧ (15#4).toNat ≤ (15#4).toNat) := by
  decide
theorem witness_KexpAndArkRunOnEveryRegisterValue :
    let s := { State.reset with nk := 5, nr := 15 }
    (4 < s.nk.toNat ∧ s.key[4 * 4]? = some 0 ∧ s.key[4 * 4 + 3]? = some 0) ∧
      (s.nk ≠ 0 ∧ s.nk.toNat ≤ 5 ∧ s.nk.toNat ≤ 59 ∧ 59 < 4 * (s.nr.toNat + 1) ∧ 59 < 60) ∧
      (5 % s.nk.toNat = 0 ∧ RCON[5 / s.nk.toNat - 1]? = some 0x01000000) ∧ (59 % s.nk.toNat ≠ 0 ∧ ¬6 < s.nk.toNat) ∧
      (11 % 7 ≠ 0 ∧ 6 < (7#4).toNat ∧ 11 % (7#4).toNat = 4) ∧
      (State.reset.nk.toNat ≤ 4 ∧ 4 * (State.reset.nr.toNat + 1) ≤ 4) ∧
      ((14#4).toNat ≤ 14 ∧ (14#4).toNat ≤ s.nr.toNat ∧ (0#4).toNat ≤ State.reset.nr.toNat ∧ s.w[56 + 3]? = some 0) := by decide +kernel
theorem witness_LengthSaturationLosesNothing : (255 ≤ 255 ∧ ¬256 ≤ 255) ∧ countField 256 = 255 ∧ countField 255 = 255 := by
  decide
theorem witness_XtimeShiftsAndReduces : (0x7F#8).toNat < 128 ∧ 128 ≤ (0x80#8).toNat := by decide
theorem witness_FieldProductLaws : gmul 0x00 0xa7 = 0x00 ∧ (0x01 : Byte) ≠ 0x00 ∧ gmul 0x02 0x8d = 0x01 := by decide
theorem witness_SboxIsInverseThenAffine : gmul 0x53 0xca = 0x01 ∧ ((0x00 : Byte) = 0x00 ∧ (0x00 : Byte) = 0x00) ∧
    subByte 0x11 = subByte 0x11 := by decide +kernel
theorem witness_WordOperators : 3 < 4 ∧ 0 < 4 := by decide
theorem witness_RconIsXtimeChain : 0 < 9 ∧ 8 < 9 := by decide
theorem witness_LoadAndStoreAreInverse : ∃ t, execList [.ldst, .stst] (running .enc 2) = .next t := ⟨_, rfl⟩
theorem witness_ColumnsAreBigEndianWords : 4 * (3 : Fin 4).val + 3 < 16 ∧
    ((running .enc 1).dir = .enc ∧ (running .enc 1).nk = 4 ∧ (running .enc 1).nr = 10) ∧ (15 : Fin 16).val < 32 ∧
    nextHas (fun _ => true) (execList [.kexp, .ldst, .ark 0] (running .enc 1)) = true := by decide +kernel
theorem witness_ArkAddsRoundKey : (running .dec 3).nr ∈ [10#4, 12#4, 14#4] ∧ (0#4).toNat ≤ (running .dec 3).nr.toNat ∧
    (10#4).toNat ≤ (running .enc 3).nr.toNat ∧ (running .enc 3).dir = .enc ∧ (running .dec 3).dir ≠ .enc := by decide
theorem witness_DecryptionReversesRoundKeys : (running .enc 3).nr ∈ [10#4, 12#4, 14#4] ∧
    (0#4).toNat ≤ (running .enc 3).nr.toNat ∧ (10#4).toNat ≤ (running .enc 3).nr.toNat := by decide
theorem witness_ColumnMixesAreLinear : ∀ r : Fin 4, cell State.reset.st r 0 = cell State.reset.st 0 0 := by decide
theorem witness_RoundCompositions : (running .enc 4).nr ∈ [10#4, 12#4, 14#4] ∧ 1 ≤ 1 ∧ 1 ≤ 9 ∧
    9 + 1 ≤ (running .enc 4).nr.toNat ∧ (running .enc 4).dir = .enc ∧ (running .dec 4).dir = .dec := by decide
theorem witness_KexpFillsScheduleByRecurrence :
    ((running .enc 1).nk, (running .enc 1).nr) ∈ [(4#4, 10#4), (6#4, 12#4), (8#4, 14#4)] ∧
    (3 < 4 ∧ 4 ≤ 4 ∧ 43 < 4 * (10 + 1) ∧ 4 % 4 = 0) ∧
    (12 % 8 ≠ 0 ∧ 6 < 8 ∧ 12 % 8 = 4) ∧ (10 % 6 ≠ 0 ∧ ¬(6 < 6 ∧ 10 % 6 = 4)) ∧ 4 * (10 + 1) ≤ 44 := by decide
theorem witness_ScheduleDependsOnKeyOnly :
    let a := { running .enc 1 with key := kbuf (upTo 32) }
    let b := { running .dec 1 with key := kbuf (upTo 16), w := Vector.replicate 60 7 }
    (a.nk, a.nr) ∈ [(4#4, 10#4), (6#4, 12#4), (8#4, 14#4)] ∧ a.nk = b.nk ∧ a.nr = b.nr ∧ a.key ≠ b.key ∧
      (∀ j, j < 4 * a.nk.toNat → a.key[j]? = b.key[j]?) ∧ 15 < 4 * a.nk.toNat := by decide +kernel
theorem witness_AcceptanceLatchesTheCommand : State.reset.busy = false ∧ 31 < min (255#8).toNat 32 ∧
    31 < (upTo 33).length ∧ 15 < min (16#8).toNat 16 ∧ 15 < pt.length := by decide
theorem witness_CommandsStopWhileBusy : (running .enc 4).busy = true := by decide
theorem witness_OneCommandAtATime :
    let b := { running .enc 4 with env := ⟨[.present 0x01010 [] []], [], [], []⟩ }
    (Inv b ∧ b.env.script = .present 0x01010 [] [] :: [] ∧ b.busy = true) ∧
      (Inv (presenting 0x01010 [] []) ∧ (presenting 0x01010 [] []).busy = false) := by decide
theorem witness_ChklenChecksLengths : (running .enc 0).blen = 16 ∧ (running .enc 0).klen = 16 ∧
    (15#8 ∉ [16#8, 24#8, 32#8]) ∧ (17#8 ∉ [16#8, 24#8, 32#8]) ∧ (33#8 ∉ [16#8, 24#8, 32#8]) ∧
    (32#8 ∈ [16#8, 24#8, 32#8] ∧ 15#8 ≠ 16#8 ∧ 17#8 ≠ 16#8) := by decide
theorem witness_EachFieldHasItsWriters :
    nextHas (fun t => decide (t.dout ≠ (running .enc 43).dout ∧ t.status ≠ .invalidBlockLength))
      (exec .stst { running .enc 43 with st := cells pt, status := .invalidBlockLength }) = true ∧
    nextHas (fun t => decide (t.w ≠ State.reset.w)) (exec .kexp (running .enc 1)) = true := by decide +kernel
theorem witness_MicroProgramsByIndex : 1 ≤ 1 ∧ (1 ≤ 1 ∧ 1 + 1 ≤ 2) ∧ (1 ≤ 13 ∧ 13 + 1 ≤ 14) := by decide
theorem witness_StepRunsDecodedInstruction :
    ((running .dec 43).busy = true ∧ fetchWord (running .dec 43) = some (.uop 0x70) ∧
      decode (.uop 0x70) = .instr .stst ∧ (running .dec 43).env.script = []) ∧
    (let s := presenting 0x12010 (upTo 32) pt
     s.busy = false ∧ s.env.script = .present 0x12010 (upTo 32) pt :: [] ∧
      decode (.command 0x12010) = .instr (.dec 32 16)) := by decide +kernel
theorem witness_StepRunsDecodedInstruction_waiting :
    let s := { running .enc 42 with env := ⟨[.wait], [], [], []⟩ }
    let p := { running .enc 3 with env := ⟨[.present 0 [] []], [], [], []⟩ }
    (s.busy = true ∧ fetchWord s = some (.uop 0x3A) ∧ decode (.uop 0x3A) = .instr (.ark 10) ∧ s.env.script = .wait :: []) ∧
    (p.busy = true ∧ fetchWord p = some (.uop 0x30) ∧ decode (.uop 0x30) = .instr (.ark 0) ∧
      p.env.script = .present 0 [] [] :: []) := by decide +kernel
theorem witness_PlacedWordRunsNext : (Instr.ark 14).wf = true ∧ encode (.ark 14) = .uop 0x3E ∧
    encode (.enc 0 255) = .command 0x000FF := by decide
theorem witness_SequencerAdvancesOrEnds : (Inv (running .enc 43) ∧ (running .enc 43).busy = true ∧
    (running .enc 43).env.script = []) ∧ Inv (running .dec 0) ∧ Inv { running .dec 0 with klen := 15 } := by decide
theorem witness_EveryStepKeepsInvariant : Inv (running .dec 42) ∧ ∃ t, step (running .dec 42) = .next t := by
  refine ⟨by decide, _, rfl⟩
theorem witness_NoStepStops : Inv State.reset ∧ Inv (running .enc 1) ∧ Inv (running .enc 43) := by decide
theorem witness_OnlyTheFirstStepCanFail :
    let s := { running .enc 0 with klen := 33 }
    Inv s ∧ s.busy = true ∧ s.env.script = [] ∧
      ∃ t, step s = .next t ∧ response t = some (.err .invalidKeyLength) := by
  refine ⟨by decide, rfl, rfl, _, rfl, rfl⟩
theorem witness_LatchedInputsAreStable : (running .enc 4).busy = true ∧ (running .enc 4).env.script = [] ∧
    (∃ t, step (running .enc 4) = .next t) ∧ (∃ t, step State.reset = .next t) ∧
    (let s := { State.reset with env := ⟨[], upTo 32, pt, []⟩ }
     s.busy = false ∧ (32#8).toNat = s.env.key.length ∧ (16#8).toNat = s.env.blk.length ∧ 31 < 32 ∧ 15 < 16 ∧
      s.env.script = []) := by
  refine ⟨rfl, rfl, ⟨_, rfl⟩, ⟨_, rfl⟩, by decide⟩
theorem witness_OutputChangesOnlyWhenAnnounced :
    nextHas (fun t => decide (t.dout ≠ (running .enc 43).dout)) (step { running .enc 43 with st := cells pt }) = true := by
  decide +kernel
theorem witness_ResetAbandonsTheCommand :
    { running .enc 20 with env := ⟨[.reset, .wait], [], [], []⟩ }.env.script = .reset :: [.wait] := by decide
theorem witness_ResponseStaysReadable :
    let s := { State.reset with rvalid := true, env := ⟨[.readResponse], [], [], []⟩ }
    Inv s ∧ s.rvalid = true ∧ s.status = .ok ∧ s.env.script = .readResponse :: [] ∧ (∃ t, step s = .next t) ∧
      State.reset.rvalid = false := by
  refine ⟨by decide, rfl, rfl, rfl, ⟨_, rfl⟩, rfl⟩
theorem witness_ResponseStaysReadable_errors :
    let k := { State.reset with rvalid := true, status := .invalidKeyLength }
    let b := { State.reset with rvalid := true, status := .invalidBlockLength, env := ⟨[.reset], [], [], []⟩ }
    (Inv k ∧ k.rvalid = true ∧ k.status = .invalidKeyLength ∧ ∃ t, step k = .next t ∧ response t = response k) ∧
      (Inv b ∧ b.rvalid = true ∧ b.status = .invalidBlockLength ∧ ∃ t, step b = .next t ∧ response t = none) := by
  refine ⟨⟨by decide, rfl, rfl, _, rfl, rfl⟩, by decide, rfl, rfl, _, rfl, rfl⟩
theorem witness_ResponseStaysReadable_unready :
    let s := { running .enc 4 with env := ⟨[.readResponse], [], [], []⟩ }
    s.rvalid = false ∧ s.env.script = .readResponse :: [] ∧ nextHas (fun t => decide (t.env.seen = [none])) (step s) = true := by
  decide
theorem witness_IdleEngineStaysIdle : State.reset.busy = false ∧ State.reset.env.script = [] ∧
    Reaches 1 State.reset State.reset := ⟨rfl, rfl, State.reset, rfl, rfl⟩
theorem witness_SmallStepMeetsBigStep : JustAccepted (running .dec 0) ∧
    0 < commandSteps (running .dec 0).klen (running .dec 0).blen ∧ Reaches 0 (running .dec 0) (running .dec 0) ∧
    JustAccepted { running .enc 0 with blen := 15 } := by
  refine ⟨by decide, by decide, rfl, by decide⟩
theorem witness_PresentedCommandGetsItsResponse :
    let s := presenting 0x11010 (upTo 16) pt
    s.busy = false ∧ s.env.script = [.present 0x11010 (upTo 16) pt] ∧
      decode (.command 0x11010) = .instr (if Dir.dec = .enc then .enc 16 16 else .dec 16 16) ∧
      (∀ j, j < (16#8).toNat → j < 32 → (kbuf (upTo 16))[j]? = (upTo 16)[j]?) ∧
      (∀ j, j < (16#8).toNat → j < 16 → (blk pt)[j]? = pt[j]?) := by decide +kernel
theorem witness_NoResidueAcrossCommands :
    let a := presenting 0x02010 (upTo 32) pt
    let b := { presenting 0x02010 (upTo 32) pt with st := cells pt, nk := 4, nr := 10, rvalid := true, upc := 44 }
    (a.busy = false ∧ b.busy = false ∧ a.env.script = [.present 0x02010 (upTo 32) pt] ∧ b.env.script = a.env.script ∧
      a ≠ b) ∧
      decode (.command 0x02010) = .instr (.enc 32 16) ∧ (32#8).toNat ≤ (upTo 32).length ∧ (16#8).toNat ≤ pt.length := by
  decide +kernel
theorem witness_DecryptionInvertsEncryption : (16#8 ∈ [16#8, 24#8, 32#8]) ∧ (32#8 ∈ [16#8, 24#8, 32#8]) := by decide
theorem witness_RunReadsOnlyTheKeyBytesInUse : kbuf (upTo 32) ≠ kbuf (upTo 16) ∧
    ∀ j, j < (16#8).toNat → (kbuf (upTo 32))[j]? = (kbuf (upTo 16))[j]? := by decide +kernel
theorem witness_InstancesDoNotInteract : (0 : Fin 2) ≠ 1 ∧ ∃ a b,
    stepInstance 2 0 #v[running .enc 4, running .dec 4] = .next a ∧ stepInstance 2 1 a = .next b := by
  refine ⟨by decide, _, _, rfl, rfl⟩
theorem witness_TapShowsStateTransforms : (running .enc 4).busy = true ∧ (running .enc 4).env.script = [] ∧
    fetchWord (running .enc 4) = some (.uop 0x40) ∧ decode (.uop 0x40) = .instr .subb ∧
    (∃ t, step (running .enc 4) = .next t) ∧ tapOfStep true (running .enc 4) ≠ none := by
  refine ⟨rfl, rfl, by decide +kernel, by decide, ⟨_, rfl⟩, by decide +kernel⟩
/-- A busy engine whose host reads, one whose host resets, and an idle engine whose `UPC` stands at a transform: each has a
step, and none of them runs a micro-operation. -/
theorem witness_TapShowsStateTransforms_silent :
    let r := { running .enc 4 with env := ⟨[.readResponse], [], [], []⟩ }
    let x := { running .enc 4 with env := ⟨[.reset], [], [], []⟩ }
    let d := { running .enc 4 with busy := false }
    (r.busy = true ∧ r.env.script = .readResponse :: [] ∧ ∃ t, step r = .next t) ∧
      (x.env.script = .reset :: [] ∧ ∃ t, step x = .next t) ∧ (d.busy = false ∧ ∃ t, step d = .next t) ∧
      fetchWord r = some (.uop 0x40) := by
  refine ⟨⟨rfl, rfl, _, rfl⟩, ⟨rfl, _, rfl⟩, ⟨rfl, _, rfl⟩, by decide +kernel⟩
theorem test_tap_silent_on_read :
    tapOfStep true { running .enc 4 with env := ⟨[.readResponse], [], [], []⟩ } = none := by decide +kernel

end Sys2Proof.Tests
end

/-! The statements of 10_state.md: which instruction writes which element of the state (O36), and the invariant of a running
command along every step (O42). -/

namespace Sys2Proof.Machine

/-! ### What an instruction that answers a next state has done -/

/-- The instructions that write `ST` and advance, and do nothing else (R20, R183, R131 to R137). -/
def WritesCells (i : Instr) : Prop :=
  i ∈ [.ldst, .subb, .isubb, .shr, .ishr, .mixc, .imixc] ∨ ∃ k, i = .ark k

/-- The six things that an instruction can have done in `s` when it answers the next state, grouped by the shared operation
that does them. -/
inductive ExecEffect (s : State) : Instr → State → Prop
  /-- A command was accepted (R181). -/
  | accepted {i : Instr} (d : Dir) (k b : BitVec 8) (command : i = .enc k b ∨ i = .dec k b) (idle : s.busy = false) :
      ExecEffect s i (acceptCommand d k b s)
  /-- `CHKLEN` raised an error (R213, R214). -/
  | raised (e : LengthError) : ExecEffect s .chklen (raiseError e s)
  /-- `CHKLEN` found both lengths legal (R182). -/
  | checked (v : Variant) (hklen : variantOfKeyLength s.klen = some v) (hblen : s.blen = 16#8) :
      ExecEffect s .chklen (advance { s with nk := BitVec.ofNat 4 v.nk, nr := BitVec.ofNat 4 v.nr })
  /-- `KEXP` wrote the word file (R160). -/
  | expanded : ExecEffect s .kexp (advance { s with w := expandKey s.nk.toNat s.nr.toNat s.key s.w })
  /-- `LDST` or a transform wrote the cells (R130, R183). -/
  | cellsWritten {i : Instr} (st : Cells) (writes : WritesCells i) : ExecEffect s i (advance { s with st := st })
  /-- `STST` wrote `DOUT` and ended the command (R184, R191). -/
  | stored : ExecEffect s .stst (endOk (advance { s with dout := storeCells s.st }))

theorem eq_acceptCommand_of_accept {d : Dir} {k b : BitVec 8} {s t : State} (h : accept d k b s = .next t) :
    s.busy = false ∧ t = acceptCommand d k b s := by
  obtain ⟨-, hfault⟩ | ⟨idle, hnext⟩ := accept_cases d k b s
  · simp [hfault] at h
  · rw [hnext] at h
    cases h
    exact ⟨idle, rfl⟩

theorem execEffect_of_accept {i : Instr} {d : Dir} {k b : BitVec 8} {s t : State} (command : i = .enc k b ∨ i = .dec k b)
    (h : accept d k b s = .next t) : ExecEffect s i t := by
  obtain ⟨idle, rfl⟩ := eq_acceptCommand_of_accept h
  exact .accepted d k b command idle

theorem execEffect_of_execChklen {s t : State} (h : execChklen s = .next t) : ExecEffect s .chklen t := by
  obtain ⟨-, hnext⟩ | ⟨v, -, -, hnext⟩ | ⟨v, hklen, hblen, hnext⟩ := execChklen_cases s <;> rw [hnext] at h <;> cases h
  · exact .raised _
  · exact .raised _
  · exact .checked v hklen hblen

theorem execEffect_of_execArk {k : BitVec 4} {s t : State} (h : execArk k s = .next t) : ExecEffect s (.ark k) t := by
  obtain ⟨-, hrefused⟩ | ⟨-, -, hnext⟩ := execArk_cases k s
  · simp [hrefused] at h
  · rw [hnext] at h
    cases h
    exact .cellsWritten _ (.inr ⟨k, rfl⟩)

/-- Inversion of `exec`: a next state comes about in one of the six ways. -/
theorem execEffect_of_exec {i : Instr} {s t : State} (h : exec i s = .next t) : ExecEffect s i t := by
  cases i with
  | enc klen blen => exact execEffect_of_accept (.inl rfl) h
  | dec klen blen => exact execEffect_of_accept (.inr rfl) h
  | chklen => exact execEffect_of_execChklen h
  | ark k => exact execEffect_of_execArk h
  | kexp => cases h; exact .expanded
  | stst => cases h; exact .stored
  | ldst | subb | shr | mixc | isubb | ishr | imixc =>
    cases h
    exact .cellsWritten _ (.inl (by decide))

/-! ### The writers of each element (R20) -/

/-- Settles O36: each of the six effects names the fields it writes. -/
theorem eachFieldHasItsWriters : Obligations.EachFieldHasItsWriters := by
  intro i s t h command
  cases execEffect_of_exec h with
  | accepted d k b hcommand idle =>
    have isCommand : command := hcommand.imp (fun hi => ⟨k, b, hi⟩) (fun hi => ⟨k, b, hi⟩)
    simp [isCommand]
  | raised e => simp
  | checked v hklen hblen => simp
  | expanded => simp
  | cellsWritten st writes => exact ⟨fun _ => .inr writes, by simp⟩
  | stored => simp

/-! ### The two ends of a micro-program (R187, R188) -/

theorem length_expandPseudo_innerRound (d : Dir) (nr i : Nat) : (expandPseudo nr (innerRound d i)).length = 4 := by
  cases d <;> rfl

theorem length_expandPseudo_finalRound (d : Dir) (nr : Nat) : (expandPseudo nr (finalRound d)).length = 3 := by
  cases d <;> rfl

theorem length_uprog (d : Dir) {nr : Nat} (h : 1 ≤ nr) : (uprog d nr).length = 4 * nr + 4 := by
  simp [uprog, List.length_flatMap, length_expandPseudo_innerRound, length_expandPseudo_finalRound]
  omega

theorem uprog_getElem?_last (d : Dir) {nr : Nat} (h : 1 ≤ nr) : (uprog d nr)[4 * nr + 3]? = some .stst := by
  have hlast : (uprog d nr).getLast? = some .stst := List.getLast?_concat
  rwa [List.getLast?_eq_getElem?, length_uprog d h] at hlast

theorem fetchWord_eq (s : State) : fetchWord s = ((uprog s.dir s.nr.toNat)[s.upc.toNat]?).map encode := by
  simp [fetchWord, uprogWords]

/-- A running command starts with its `CHKLEN`, whatever the registers hold (R187). -/
theorem sequencerStep_first {s : State} (h : s.upc = 0#6) : sequencerStep s = execChklen s :=
  sequencerStep_of_decode (w := encode .chklen) (i := .chklen) (by rw [fetchWord_eq, h]; rfl) rfl

/-- A micro-program ends with `STST` (R187). -/
theorem sequencerStep_last {s : State} (hnr : 1 ≤ s.nr.toNat) (h : s.upc.toNat = 4 * s.nr.toNat + 3) :
    sequencerStep s = execStst s :=
  sequencerStep_of_decode (w := encode .stst) (i := .stst)
    (by rw [fetchWord_eq, h, uprog_getElem?_last s.dir hnr]; rfl) rfl

theorem exec_of_sequencerStep {s t : State} (h : sequencerStep s = .next t) : ∃ i, exec i s = .next t := by
  unfold sequencerStep execWord at h
  split at h
  · split at h
    · exact ⟨_, h⟩
    · cases h
  · cases h

/-! ### The invariant along a step -/

theorem variant_nr_bounds (v : Variant) : 1 ≤ v.nr ∧ v.nr ≤ 14 := by cases v <;> decide

theorem toNat_ofNat_variant_nk (v : Variant) : (BitVec.ofNat 4 v.nk).toNat = v.nk := by cases v <;> rfl

theorem toNat_ofNat_variant_nr (v : Variant) : (BitVec.ofNat 4 v.nr).toNat = v.nr := by cases v <;> rfl

theorem inv_of_idle {s : State} (h : s.busy = false) : Inv s := by simp [Inv, h]

/-- Advancing inside the micro-program stays inside it. -/
theorem inv_advance {s : State} {v : Variant} (hrvalid : s.rvalid = false) (hklen : variantOfKeyLength s.klen = some v)
    (hblen : s.blen = 16#8) (hnk : s.nk.toNat = v.nk) (hnr : s.nr.toNat = v.nr) (hupc : s.upc.toNat < 4 * v.nr + 3) :
    Inv (advance s) := by
  have hbound := variant_nr_bounds v
  have hsucc : (advance s).upc.toNat = s.upc.toNat + 1 := by rw [advance_upc]; bv_omega
  exact ⟨fun _ => hrvalid, fun _ => .inr ⟨v, hklen, hblen, hnk, hnr, by omega, by omega⟩⟩

theorem execChklen_keeps_inv {s t : State} (hrvalid : s.rvalid = false) (hupc : s.upc = 0#6)
    (h : execChklen s = .next t) : Inv t := by
  obtain ⟨-, hnext⟩ | ⟨v, -, -, hnext⟩ | ⟨v, hklen, hblen, hnext⟩ := execChklen_cases s <;> rw [hnext] at h <;> cases h
  · exact inv_of_idle rfl
  · exact inv_of_idle rfl
  · exact inv_advance hrvalid hklen hblen (toNat_ofNat_variant_nk v) (toNat_ofNat_variant_nr v) (by simp [hupc])

/-- Before the end of the micro-program, whatever micro-operation stands there either ends the command or advances. -/
theorem exec_keeps_inv_inside {i : Instr} {s t : State} (hbusy : s.busy = true) (hrvalid : s.rvalid = false)
    (hpast : PastCheck s) (hupc : s.upc.toNat < 4 * s.nr.toNat + 3) (h : exec i s = .next t) : Inv t := by
  obtain ⟨v, hklen, hblen, hnk, hnr, -, -⟩ := hpast
  rw [hnr] at hupc
  cases execEffect_of_exec h with
  | accepted d k b command idle => simp [idle] at hbusy
  | raised e => exact inv_of_idle rfl
  | checked u hu =>
    obtain rfl : v = u := Option.some.inj (hklen.symm.trans hu)
    exact inv_advance hrvalid hklen hblen (toNat_ofNat_variant_nk v) (toNat_ofNat_variant_nr v) hupc
  | expanded => exact inv_advance hrvalid hklen hblen hnk hnr hupc
  | cellsWritten st writes => exact inv_advance hrvalid hklen hblen hnk hnr hupc
  | stored => exact inv_of_idle rfl

theorem sequencerStep_keeps_inv {s t : State} (hbusy : s.busy = true) (hinv : Inv s) (h : sequencerStep s = .next t) :
    Inv t := by
  obtain ⟨hrvalid, hplace⟩ := hinv
  replace hrvalid := hrvalid hbusy
  obtain hupc | hpast := hplace hbusy
  · exact execChklen_keeps_inv hrvalid hupc (sequencerStep_first hupc ▸ h)
  · have ⟨v, _, _, _, hnr, _, hle⟩ := hpast
    have hnr_pos : 1 ≤ s.nr.toNat := hnr ▸ (variant_nr_bounds v).1
    obtain hlast | hlt : s.upc.toNat = 4 * s.nr.toNat + 3 ∨ s.upc.toNat < 4 * s.nr.toNat + 3 := by omega
    · rw [sequencerStep_last hnr_pos hlast] at h
      cases h
      exact inv_of_idle rfl
    · obtain ⟨i, hexec⟩ := exec_of_sequencerStep h
      exact exec_keeps_inv_inside hbusy hrvalid hpast hlt hexec

theorem engineStep_keeps_inv {s t : State} (hinv : Inv s) (h : engineStep s = .next t) : Inv t := by
  cases hbusy : s.busy with
  | true => exact sequencerStep_keeps_inv hbusy hinv (engineStep_busy hbusy ▸ h)
  | false =>
    rw [engineStep_idle hbusy] at h
    cases h
    exact hinv

/-- Every command word is a command (R72). -/
theorem decodeCommand_cases (w : BitVec 17) : ∃ k b, decodeCommand w = .enc k b ∨ decodeCommand w = .dec k b := by
  unfold decodeCommand
  split
  · exact ⟨_, _, .inl rfl⟩
  · exact ⟨_, _, .inr rfl⟩

theorem inv_acceptCommand (d : Dir) (k b : BitVec 8) (s : State) : Inv (acceptCommand d k b s) :=
  ⟨fun _ => rfl, fun _ => .inl rfl⟩

theorem inv_of_accept {d : Dir} {k b : BitVec 8} {s t : State} (h : accept d k b s = .next t) : Inv t := by
  obtain ⟨-, rfl⟩ := eq_acceptCommand_of_accept h
  exact inv_acceptCommand d k b s

/-- Settles O42: the host's actions leave the running command as it is, end it or start one; the sequencer advances it inside
its micro-program or ends it. -/
theorem everyStepKeepsInvariant : Obligations.EveryStepKeepsInvariant := by
  intro s t hinv h
  obtain ⟨-, hstep⟩ | ⟨rest, -, hstep⟩ | ⟨rest, -, hstep⟩ | ⟨rest, -, hstep⟩ | ⟨_, _, _, _, -, hbusy, hstep⟩ |
    ⟨cmd, _, _, _, -, -, hstep⟩ := step_cases s <;> rw [hstep] at h
  · exact engineStep_keeps_inv hinv h
  · exact engineStep_keeps_inv (s := setScript rest s) hinv h
  · cases h
    exact hinv
  · cases h
    exact inv_of_idle rfl
  · exact sequencerStep_keeps_inv hbusy hinv h
  · obtain ⟨k, b, hcmd | hcmd⟩ := decodeCommand_cases cmd <;> rw [hcmd] at h <;> exact inv_of_accept h

end Sys2Proof.Machine


/-! The statements of 20_memory.md: columns, round keys and key bytes as big-endian words (O18), and which steps change
`DOUT` (O46). -/

namespace Sys2Proof.Machine

/-! ### Packing bytes into a word (R8, R10) -/

/-- Byte `k` of a packed word, counted from the least significant. -/
theorem byteOfWord_packWord (b3 b2 b1 b0 : Byte) :
    byteOfWord (packWord b3 b2 b1 b0) 3 = b3 ∧ byteOfWord (packWord b3 b2 b1 b0) 2 = b2 ∧
      byteOfWord (packWord b3 b2 b1 b0) 1 = b1 ∧ byteOfWord (packWord b3 b2 b1 b0) 0 = b0 := by
  simp [byteOfWord, packWord, BitVec.extractLsb'_append_eq_ite (v := 24) (w := 8),
    BitVec.extractLsb'_append_eq_ite (v := 16) (w := 8), BitVec.extractLsb'_append_eq_ite (v := 8) (w := 8)]

theorem packWord_byteOfWord (w : Word) :
    packWord (byteOfWord w 3) (byteOfWord w 2) (byteOfWord w 1) (byteOfWord w 0) = w := by
  unfold packWord byteOfWord
  simp only [Nat.reduceMul, BitVec.extractLsb'_append_extractLsb'_eq_extractLsb']
  exact BitVec.extractLsb'_eq_self

theorem packWord_xor (a3 a2 a1 a0 b3 b2 b1 b0 : Byte) :
    packWord (a3 ^^^ b3) (a2 ^^^ b2) (a1 ^^^ b1) (a0 ^^^ b0) = packWord a3 a2 a1 a0 ^^^ packWord b3 b2 b1 b0 := by
  unfold packWord
  rw [← BitVec.xor_append, ← BitVec.xor_append, ← BitVec.xor_append]

/-- Row `r` of the column that key word `i` meets takes `KEY[4i + r]` (R50, R53). -/
theorem byteOfWord_keyWord (key : KeyBuffer) (i : Nat) (r : Fin 4) :
    byteOfWord (keyWord key i) (3 - r.val) = keyByte key (4 * i + r.val) := by
  obtain ⟨h3, h2, h1, h0⟩ := byteOfWord_packWord (keyByte key (4 * i)) (keyByte key (4 * i + 1))
    (keyByte key (4 * i + 2)) (keyByte key (4 * i + 3))
  match r with
  | 0 => exact h3
  | 1 => exact h2
  | 2 => exact h1
  | 3 => exact h0

/-! ### Columns as words (R51, R53, R54) -/

theorem columnWord_loadCells (b : Block) (c : Fin 4) :
    columnWord (loadCells b) c = packWord b[4 * c.val] b[4 * c.val + 1] b[4 * c.val + 2] b[4 * c.val + 3] := by
  simp [columnWord, blockIndex, Nat.add_comm]

theorem columnWord_addRoundKey (w : Schedule) (base : Nat) (st : Cells) (c : Fin 4) :
    columnWord (addRoundKey w base st) c = columnWord st c ^^^ roundKeyWord w base c := by
  simp only [columnWord, cell_addRoundKey]
  rw [packWord_xor]
  exact congrArg _ (packWord_byteOfWord _)

/-- What a command runs after its `CHKLEN` and before its rounds always completes, since no `NR` reserves `ARK 0` (R76); it
leaves the loaded block with the first round key added. -/
theorem execList_kexp_ldst_ark_zero (s : State) : ∃ t, execList [.kexp, .ldst, .ark 0#4] s = .next t ∧
    t.st = addRoundKey (expandKey s.nk.toNat s.nr.toNat s.key s.w) (rkbase s.dir 0 s.nr.toNat) (loadCells s.din) :=
  ⟨_, rfl, rfl⟩

/-- The first round key of an encryption is the first 16 bytes of the key, in the order of the block's bytes. -/
theorem cell_addRoundKey_expandKey_zero {nk nr : Nat} (hnk : 4 ≤ nk) (key : KeyBuffer) (w : Schedule) (st : Cells)
    (r c : Fin 4) :
    cell (addRoundKey (expandKey nk nr key w) 0 st) r c = cell st r c ^^^ keyByte key (blockIndex r c) := by
  rw [cell_addRoundKey, roundKeyWord, expandKey_key nk nr key w (by omega) (by omega), byteOfWord_keyWord]
  simp [blockIndex, Nat.add_comm]

/-- Settles O18: the column laws hold byte by byte; in the first `ARK`, cell (r, c) of the loaded block meets byte `r` of key
word `c`, which is the key byte at the cell's own block index. -/
theorem columnsAreBigEndianWords : Obligations.ColumnsAreBigEndianWords := by
  refine ⟨fun b c _ => columnWord_loadCells b c, columnWord_addRoundKey, fun s t hdir hnk hnr h j hj => ?_⟩
  obtain ⟨r, c, rfl⟩ := blockIndex_surjective j
  obtain ⟨u, hu, hst⟩ := execList_kexp_ldst_ark_zero s
  obtain rfl : t = u := by simpa [h] using hu
  have hbase : rkbase s.dir 0 s.nr.toNat = 0 := by rw [hdir]; rfl
  rw [storeCells_get, hst, hbase, cell_addRoundKey_expandKey_zero (by simp [hnk]), cell_loadCells, keyByte_of_lt _ _ hj]

/-! ### The steps that change `DOUT` (R20, R59, R192) -/

theorem eq_stst_of_dout_ne {i : Instr} {s t : State} (h : exec i s = .next t) (hdout : t.dout ≠ s.dout) : i = .stst := by
  obtain ⟨-, -, -, -, hwriter, -⟩ := eachFieldHasItsWriters i s t h
  exact hwriter hdout

/-- On either channel `STST` is the one word `0x70` (R74, R81). -/
theorem eq_uop_of_decode_stst {w : InstrWord} (h : decode w = .instr .stst) : w = .uop 0x70#8 := by
  cases w with
  | command cmd =>
    obtain ⟨k, b, hcmd | hcmd⟩ := decodeCommand_cases cmd <;> simp [decode, hcmd] at h
  | uop b =>
    have only_word : ∀ b : BitVec 8, decodeUop b = .instr .stst → b = 0x70#8 := by decide
    rw [only_word b h]

/-- Inversion of the sequencer's step: the word at `UPC` decodes, and its instruction makes the step (R189). -/
theorem fetched_instr_of_sequencerStep {s t : State} (h : sequencerStep s = .next t) :
    ∃ w i, fetchWord s = some w ∧ decode w = .instr i ∧ exec i s = .next t := by
  unfold sequencerStep execWord at h
  split at h
  next w hfetch =>
    split at h
    next i hdecode => exact ⟨w, i, hfetch, hdecode, h⟩
    next => cases h
  next => cases h

/-- An engine that changes `DOUT` runs its `STST`, which ends the command with `OK` (R184, R191). -/
theorem engineStep_announces_output {s t : State} (h : engineStep s = .next t) (hdout : t.dout ≠ s.dout) :
    s.busy = true ∧ fetchWord s = some (.uop 0x70#8) ∧ t.busy = false ∧ t.rvalid = true ∧ t.status = .ok := by
  cases hbusy : s.busy with
  | false =>
    rw [engineStep_idle hbusy] at h
    cases h
    exact absurd rfl hdout
  | true =>
    rw [engineStep_busy hbusy] at h
    obtain ⟨w, i, hfetch, hdecode, hexec⟩ := fetched_instr_of_sequencerStep h
    obtain rfl := eq_stst_of_dout_ne hexec hdout
    obtain rfl := eq_uop_of_decode_stst hdecode
    cases hexec
    exact ⟨rfl, hfetch, rfl, rfl, rfl⟩

/-- Settles O46: of the host's actions only reset writes `DOUT`, since a presented word is a command and no `STST`; the rest is
the engine's own step. -/
theorem outputChangesOnlyWhenAnnounced : Obligations.OutputChangesOnlyWhenAnnounced := by
  intro s t h hdout
  obtain ⟨-, hstep⟩ | ⟨rest, -, hstep⟩ | ⟨rest, -, hstep⟩ | ⟨rest, hscript, hstep⟩ | ⟨_, _, _, _, -, hbusy, hstep⟩ |
    ⟨cmd, _, _, _, -, -, hstep⟩ := step_cases s <;> rw [hstep] at h
  · exact .inr (engineStep_announces_output h hdout)
  · exact .inr (engineStep_announces_output (s := setScript rest s) h hdout)
  · cases h
    exact absurd rfl hdout
  · cases h
    exact .inl ⟨rest, hscript, rfl⟩
  · exact .inr (engineStep_announces_output ((engineStep_busy hbusy).trans h) hdout)
  · obtain ⟨k, b, hcmd | hcmd⟩ := decodeCommand_cases cmd <;> rw [hcmd] at h <;> cases eq_stst_of_dout_ne h hdout

end Sys2Proof.Machine


/-! The statements of 30_encoding.md: decoder and encoder agree (O2, O3), what each word decodes to (O1, O4), the reserved
words (O5, O58), and the counts of a command word (O6). -/

namespace Sys2Proof.Machine

/-! ### Words as their fields (R70, R73) -/

theorem toNat_append_eq_mul_add {m n : Nat} (x : BitVec m) (y : BitVec n) : (x ++ y).toNat = x.toNat * 2 ^ n + y.toNat := by
  rw [BitVec.toNat_append, ← Nat.shiftLeft_add_eq_or_of_lt y.isLt, Nat.shiftLeft_eq]

theorem exists_uop_fields (w : BitVec 8) : ∃ u k : BitVec 4, w = u ++ k :=
  ⟨_, _, (BitVec.extractLsb'_append_extractLsb' (w := 4) (len := 4) (x := w)).symm⟩

theorem toNat_commandWord (d : BitVec 1) (k b : BitVec 8) :
    (commandWord d k b).toNat = 65536 * d.toNat + 256 * k.toNat + b.toNat := by
  rw [commandWord, toNat_append_eq_mul_add, toNat_append_eq_mul_add]
  omega

theorem exists_commandWord (w : BitVec 17) : ∃ d k b, w = commandWord d k b := by
  refine ⟨w.extractLsb' 16 1, w.extractLsb' 8 8, w.extractLsb' 0 8, BitVec.eq_of_toNat_eq ?_⟩
  rw [toNat_commandWord]
  simp only [BitVec.extractLsb'_toNat, Nat.shiftRight_eq_div_pow]
  omega

/-! ### The command channel (R70, R72) -/

theorem extractLsb'_commandWord (d : BitVec 1) (k b : BitVec 8) :
    (commandWord d k b).extractLsb' 16 1 = d ∧ (commandWord d k b).extractLsb' 8 8 = k ∧
      (commandWord d k b).extractLsb' 0 8 = b := by
  simp only [BitVec.toNat_eq, BitVec.extractLsb'_toNat, Nat.shiftRight_eq_div_pow, toNat_commandWord]
  omega

theorem decodeCommand_commandWord (d : BitVec 1) (k b : BitVec 8) :
    decodeCommand (commandWord d k b) = if d = 0#1 then .enc k b else .dec k b := by
  obtain ⟨hdir, hklen, hblen⟩ := extractLsb'_commandWord d k b
  simp only [decodeCommand, hdir, hklen, hblen]

/-- Settles O4: the fields of the word are the witnesses, and bit 16 is what the number holds above 2^16. -/
theorem everyCommandWordIsLegal : Obligations.EveryCommandWordIsLegal := by
  intro w
  obtain ⟨d, k, b, rfl⟩ := exists_commandWord w
  have hdir : (commandWord d k b).toNat / 65536 = d.toNat := by rw [toNat_commandWord]; omega
  refine ⟨k, b, by rw [hdir, toNat_commandWord], ?_⟩
  rw [hdir, decode, decodeCommand_commandWord]
  simp [BitVec.toNat_eq]

/-! ### The micro-operation channel (R73 to R76) -/

/-- The micro-operations without operand, each with its code in bits 7:4 (R74); `ARK` has the code 0x3. -/
def operandlessUops : List (BitVec 4 × Instr) :=
  [(0x0#4, .chklen), (0x1#4, .kexp), (0x2#4, .ldst), (0x4#4, .subb), (0x5#4, .shr), (0x6#4, .mixc), (0x7#4, .stst),
    (0xC#4, .isubb), (0xD#4, .ishr), (0xE#4, .imixc)]

/-- The codes of no micro-operation (R76). -/
def reservedCodes : List Nat := [0x8, 0x9, 0xA, 0xB, 0xF]

/-- Each of the sixteen codes is that of `ARK`, that of a micro-operation without operand, or reserved. -/
theorem uop_code_cases (u : BitVec 4) :
    u = 0x3#4 ∨ (u.toNat ≠ 3 ∧ u.toNat ∉ reservedCodes ∧ ∃ e ∈ operandlessUops, e.1 = u) ∨ u.toNat ∈ reservedCodes := by
  revert u
  decide

theorem encode_of_mem_operandlessUops :
    ∀ e ∈ operandlessUops, e.2.wf = true ∧ encode e.2 = .uop (e.1 ++ 0#4) := by
  decide

theorem decodeUop_ark (k : BitVec 4) :
    decodeUop (0x3#4 ++ k) = if k = 15#4 then .invalid .reservedArk else .instr (.ark k) := by
  simp only [decodeUop, BitVec.extractLsb'_append_eq_left, BitVec.extractLsb'_append_eq_right, if_pos]

theorem decodeUop_of_mem_operandlessUops {e : BitVec 4 × Instr} (h : e ∈ operandlessUops) (k : BitVec 4) :
    decodeUop (e.1 ++ k) = if k = 0#4 then .instr e.2 else .invalid (.strayOperand (e.1 ++ k)) := by
  simp only [decodeUop, BitVec.extractLsb'_append_eq_left, BitVec.extractLsb'_append_eq_right]
  simp only [operandlessUops, List.mem_cons, List.not_mem_nil, or_false] at h
  rcases h with rfl | rfl | rfl | rfl | rfl | rfl | rfl | rfl | rfl | rfl <;> rfl

theorem decodeUop_of_mem_reservedCodes {u : BitVec 4} (h : u.toNat ∈ reservedCodes) (k : BitVec 4) :
    decodeUop (u ++ k) = .invalid (.reservedUop u) := by
  have codes : ∀ u : BitVec 4, u.toNat ∈ reservedCodes → u = 0x8#4 ∨ u = 0x9#4 ∨ u = 0xA#4 ∨ u = 0xB#4 ∨ u = 0xF#4 := by
    decide
  simp only [decodeUop, BitVec.extractLsb'_append_eq_left]
  obtain rfl | rfl | rfl | rfl | rfl := codes u h <;> rfl

/-! ### Decoder and encoder (R81) -/

/-- Settles O2: a command by its fields, `ARK` by its operand, the rest at the one word each has. -/
theorem decodeOfEncode : Obligations.DecodeOfEncode := by
  intro i hwf
  cases i with
  | enc k b => exact congrArg _ (decodeCommand_commandWord 0#1 k b)
  | dec k b => exact congrArg _ (decodeCommand_commandWord 1#1 k b)
  | ark k =>
    have hk : k ≠ 15#4 := by rintro rfl; cases hwf
    exact (decodeUop_ark k).trans (if_neg hk)
  | chklen | kexp | ldst | subb | shr | mixc | stst | isubb | ishr | imixc => rfl

theorem encode_of_decodeCommand (w : BitVec 17) :
    (decodeCommand w).wf = true ∧ encode (decodeCommand w) = .command w := by
  obtain ⟨d, k, b, rfl⟩ := exists_commandWord w
  rw [decodeCommand_commandWord]
  obtain rfl | rfl := BitVec.eq_zero_or_eq_one d <;> exact ⟨rfl, rfl⟩

theorem encode_of_decodeUop {w : BitVec 8} {i : Instr} (h : decodeUop w = .instr i) :
    i.wf = true ∧ encode i = .uop w := by
  obtain ⟨u, k, rfl⟩ := exists_uop_fields w
  obtain rfl | ⟨-, -, e, he, rfl⟩ | hu := uop_code_cases u
  · rw [decodeUop_ark] at h
    split at h
    · cases h
    · cases h
      exact ⟨by simp only [Instr.wf, decide_eq_true_eq]; bv_omega, rfl⟩
  · rw [decodeUop_of_mem_operandlessUops he] at h
    split at h
    · cases h
      subst k
      exact encode_of_mem_operandlessUops e he
    · cases h
  · rw [decodeUop_of_mem_reservedCodes hu] at h
    cases h

/-- Settles O3, channel by channel. -/
theorem encodeOfDecode : Obligations.EncodeOfDecode := by
  intro w i h
  cases w with
  | command cmd =>
    cases h
    exact encode_of_decodeCommand cmd
  | uop b => exact encode_of_decodeUop h

/-- Settles O1: each of the words is the encoding of its instruction. -/
theorem tableWordsDecode : Obligations.TableWordsDecode :=
  ⟨decodeOfEncode .chklen rfl, decodeOfEncode .kexp rfl, decodeOfEncode .ldst rfl, decodeOfEncode (.ark 0#4) rfl,
    decodeOfEncode (.ark 14#4) rfl, decodeOfEncode .subb rfl, decodeOfEncode .shr rfl, decodeOfEncode .mixc rfl,
    decodeOfEncode .stst rfl, decodeOfEncode .isubb rfl, decodeOfEncode .ishr rfl, decodeOfEncode .imixc rfl,
    decodeOfEncode (.enc 16#8 16#8) rfl, decodeOfEncode (.dec 32#8 16#8) rfl⟩

/-! ### Reserved words (R76) -/

/-- The decoder rejects what R76 reserves and nothing else. -/
theorem decodeUop_invalid_iff (u k : BitVec 4) : (∃ r, decodeUop (u ++ k) = .invalid r) ↔
    (u.toNat ∈ reservedCodes ∨ (u.toNat ≠ 3 ∧ k ≠ 0#4) ∨ (u = 3#4 ∧ k = 15#4)) := by
  obtain rfl | ⟨hark, hcode, e, he, rfl⟩ | hu := uop_code_cases u
  · rw [decodeUop_ark]
    by_cases hk : k = 15#4 <;> simp [hk, reservedCodes]
  · rw [decodeUop_of_mem_operandlessUops he]
    have hne : e.1 ≠ 3#4 := fun h => hark (congrArg _ h)
    by_cases hk : k = 0#4 <;> simp [hk, hark, hcode, hne]
  · rw [decodeUop_of_mem_reservedCodes hu]
    simp [hu]

theorem wfFor_of_ne_ark {i : Instr} (h : ∀ k, i ≠ .ark k) (nr : Nat) : i.wfFor nr = true := by
  cases i with
  | ark k => exact absurd rfl (h k)
  | _ => rfl

/-- `ARK K` is an instruction of the command for every `K` up to its `NR`, and `NR` is at most 14 (R6, R75). -/
theorem wfFor_arkAt {i nr : Nat} (hi : i ≤ nr) (hnr : nr ≤ 14) : (arkAt i).wfFor nr = true := by
  simp only [arkAt, Instr.wfFor, BitVec.toNat_ofNat, Bool.and_eq_true, decide_eq_true_eq]
  omega

theorem wf_of_wfFor {i : Instr} {nr : Nat} (h : i.wfFor nr = true) : i.wf = true := by
  cases i with
  | ark k => exact (Bool.and_eq_true_iff.mp h).1
  | _ => rfl

theorem wfFor_of_mem_expandPseudo {p : Pseudo} {nr : Nat} (hp : p.wf nr = true) (hnr : nr ≤ 14) :
    ∀ i ∈ expandPseudo nr p, i.wfFor nr = true := by
  cases p with
  | fround r | iround r =>
    have hr : r ≤ nr := by simp [Pseudo.wf] at hp; omega
    simp [expandPseudo, wfFor_arkAt hr hnr, wfFor_of_ne_ark]
  | ffinal | ifinal => simp [expandPseudo, wfFor_arkAt le_rfl hnr, wfFor_of_ne_ark]

theorem wfFor_of_mem_uprog (d : Dir) {nr : Nat} (hnr : nr ≤ 14) : ∀ i ∈ uprog d nr, i.wfFor nr = true := by
  have hinner : ∀ r ∈ List.range' 1 (nr - 1), (innerRound d r).wf nr = true := by
    intro r hr
    rw [List.mem_range'_1] at hr
    cases d <;> simp [innerRound, Pseudo.wf] <;> omega
  have hfinal : (finalRound d).wf nr = true := by cases d <;> rfl
  simp only [uprog, List.forall_mem_append, List.forall_mem_flatMap]
  refine ⟨⟨⟨?_, fun r hr => wfFor_of_mem_expandPseudo (hinner r hr) hnr⟩, wfFor_of_mem_expandPseudo hfinal hnr⟩, ?_⟩
  · simp [wfFor_arkAt (Nat.zero_le nr) hnr, wfFor_of_ne_ark]
  · simp [wfFor_of_ne_ark]

/-- Settles O5: the decoder rejects what R76 reserves, code by code; a micro-program's rounds are well-formed for its number of
rounds; and a command word is a command. -/
theorem reservedWordsNeverExecute : Obligations.ReservedWordsNeverExecute := by
  refine ⟨fun w => ?_, fun d v i hi => ?_, fun w => ?_⟩
  · obtain ⟨u, k, rfl⟩ := exists_uop_fields w
    have hcode : (u ++ k).toNat / 16 = u.toNat := by rw [toNat_append_eq_mul_add]; omega
    have hoperand : (u ++ k).toNat % 16 = k.toNat := by rw [toNat_append_eq_mul_add]; omega
    have hlast : (u ++ k).toNat = 0x3F ↔ u = 3#4 ∧ k = 15#4 := by rw [toNat_append_eq_mul_add]; bv_omega
    have hzero : k.toNat ≠ 0 ↔ k ≠ 0#4 := by bv_omega
    rw [hcode, hoperand, hlast, hzero]
    exact decodeUop_invalid_iff u k
  · have hfor := wfFor_of_mem_uprog d (variant_nr_bounds v).2 i hi
    exact ⟨hfor, wf_of_wfFor hfor⟩
  · obtain ⟨k, b, hcmd⟩ := decodeCommand_cases w
    exact ⟨k, b, hcmd.imp (congrArg _) (congrArg _)⟩

/-- Settles O58: the meaning of `ARK` completes only below both bounds. -/
theorem reservedRoundKeysAreRefused : Obligations.ReservedRoundKeysAreRefused := by
  intro s k hk
  obtain ⟨-, hrefused⟩ | ⟨hle, hnr, -⟩ := execArk_cases k s
  · exact hrefused
  · obtain rfl | hlt := hk
    · exact absurd hle (by decide)
    · exact absurd hnr (by omega)

/-! ### The counts of a command word (R71) -/

theorem toNat_countField (n : Nat) : (countField n).toNat = min n 255 := by
  rw [countField, BitVec.toNat_ofNat]
  omega

/-- Saturation keeps every count below 255 apart from all others. -/
theorem countField_eq_iff {n c : Nat} (hc : c < 255) : countField n = BitVec.ofNat 8 c ↔ n = c := by
  rw [BitVec.toNat_eq, toNat_countField, BitVec.toNat_ofNat]
  omega

/-- Settles O6: the lengths that the engine tests for are all below the saturated value. -/
theorem lengthSaturationLosesNothing : Obligations.LengthSaturationLosesNothing := by
  intro n
  refine ⟨?_, ?_, countField_eq_iff (by decide)⟩
  · rw [toNat_countField]
    split <;> omega
  · simp only [variantOfKeyLength, countField_eq_iff (c := 16) (by decide), countField_eq_iff (c := 24) (by decide),
      countField_eq_iff (c := 32) (by decide)]

end Sys2Proof.Machine


/-! The statements of 40_gf_arithmetic.md: `xtime` (O7), the two multipliers of the engine (O8) and the laws of the reference
product (O9). The last two rest on one fact: a byte function that respects XOR and `xtime` is the field product by its value
at `0x01`. -/

namespace Sys2Proof.Machine

/-! ### `xtime` (R91) -/

theorem xtime_eq_xor (b : Byte) : xtime b = (b <<< 1) ^^^ if b.getLsbD 7 then 0x1B#8 else 0#8 := by
  rw [xtime]
  split <;> simp

/-- Bit 7 is what tells the two cases of `xtime` apart. -/
theorem getLsbD_seven (b : Byte) : b.getLsbD 7 = decide (128 ≤ b.toNat) := by
  rw [← BitVec.msb_eq_getLsbD_last, BitVec.msb_eq_decide]

/-- Settles O7, by the value of bit 7. -/
theorem xtimeShiftsAndReduces : Obligations.XtimeShiftsAndReduces := by
  intro b
  refine ⟨fun hb => ?_, fun hb => ?_⟩
  · have hbit : b.getLsbD 7 = false := by rw [getLsbD_seven, decide_eq_false (by omega)]
    rw [xtime_eq_xor, hbit, if_neg Bool.false_ne_true, BitVec.xor_zero, BitVec.toNat_shiftLeft, Nat.shiftLeft_eq]
    omega
  · have hbit : b.getLsbD 7 = true := by rw [getLsbD_seven, decide_eq_true hb]
    have hshift : b <<< 1 = BitVec.ofNat 8 (2 * b.toNat - 256) := by
      rw [BitVec.toNat_eq, BitVec.toNat_shiftLeft, BitVec.toNat_ofNat, Nat.shiftLeft_eq]
      omega
    rw [xtime_eq_xor, hbit, if_pos rfl, hshift]

theorem xtime_xor (b c : Byte) : xtime (b ^^^ c) = xtime b ^^^ xtime c := by
  have hmask : (if (b ^^^ c).getLsbD 7 then 0x1B#8 else 0#8) =
      (if b.getLsbD 7 then 0x1B#8 else 0#8) ^^^ if c.getLsbD 7 then 0x1B#8 else 0#8 := by
    rw [BitVec.getLsbD_xor]
    cases b.getLsbD 7 <;> cases c.getLsbD 7 <;> rfl
  rw [xtime_eq_xor, xtime_eq_xor b, xtime_eq_xor c, hmask, BitVec.shiftLeft_xor_distrib]
  ac_rfl

/-! ### Field-linear functions of a byte -/

/-- A function of a byte that respects the field's addition and its multiplication by `0x02`. -/
structure FieldLinear (f : Byte → Byte) : Prop where
  map_xor : ∀ b c, f (b ^^^ c) = f b ^^^ f c
  map_xtime : ∀ b, f (xtime b) = xtime (f b)

namespace FieldLinear

variable {f g : Byte → Byte}

theorem self : FieldLinear fun b => b := ⟨fun _ _ => rfl, fun _ => rfl⟩

theorem zero : FieldLinear fun _ => 0x00 := ⟨fun _ _ => rfl, fun _ => rfl⟩

theorem xtime (hf : FieldLinear f) : FieldLinear fun b => xtime (f b) :=
  ⟨fun b c => by rw [hf.map_xor, xtime_xor], fun b => by rw [hf.map_xtime]⟩

theorem xor (hf : FieldLinear f) (hg : FieldLinear g) : FieldLinear fun b => f b ^^^ g b where
  map_xor b c := by
    rw [hf.map_xor, hg.map_xor]
    ac_rfl
  map_xtime b := by rw [hf.map_xtime, hg.map_xtime, xtime_xor]

theorem map_zero (hf : FieldLinear f) : f 0x00 = 0x00 := by
  simpa using hf.map_xor 0x00 0x00

end FieldLinear

/-! ### The multipliers as Horner's scheme over bytes (R93, R94) -/

/-- What one bit of `a` contributes to the product by `b`. -/
def bitTerm (a b : Byte) (k : Nat) : Byte := if a.getLsbD k then b else 0x00

/-- One iteration of the multipliers once the ninth bit is reduced away. -/
def hornerStep (a b acc : Byte) (k : Nat) : Byte := xtime acc ^^^ bitTerm a b k

/-- On a reduced accumulator an iteration is `xtime`, followed by the term of the bit. -/
theorem gfIterate_setWidth (a b x : Byte) (k : Nat) :
    gfIterate a b (x.setWidth 9) k = (hornerStep a b x k).setWidth 9 := by
  have hadded : (if a.getLsbD k then (x.setWidth 9 <<< 1) ^^^ b.setWidth 9 else x.setWidth 9 <<< 1) =
      (x.setWidth 9 <<< 1) ^^^ (bitTerm a b k).setWidth 9 := by
    rw [bitTerm]
    split <;> simp
  have htop : ((x.setWidth 9 <<< 1) ^^^ (bitTerm a b k).setWidth 9).getLsbD 8 = x.getLsbD 7 := by
    simp [BitVec.getLsbD_of_ge]
  have hxtime : ∀ x : Byte, (x.setWidth 9 <<< 1) ^^^ (if x.getLsbD 7 then 0x11B#9 else 0#9) = (xtime x).setWidth 9 := by
    decide
  rw [hornerStep, BitVec.setWidth_xor, ← hxtime]
  simp only [gfIterate, hadded, htop]
  split
  · ac_rfl
  · simp

theorem foldl_gfIterate (a b : Byte) (ks : List Nat) (x : Byte) :
    ks.foldl (gfIterate a b) (x.setWidth 9) = (ks.foldl (hornerStep a b) x).setWidth 9 := by
  induction ks generalizing x with
  | nil => rfl
  | cons k ks ih => rw [List.foldl_cons, gfIterate_setWidth, ih, List.foldl_cons]

theorem setWidth_foldl_gfIterate (a b : Byte) (ks : List Nat) :
    (ks.foldl (gfIterate a b) 0#9).setWidth 8 = ks.foldl (hornerStep a b) 0x00 := by
  have hfold := congrArg (BitVec.setWidth 8) (foldl_gfIterate a b ks 0x00)
  rwa [BitVec.setWidth_setWidth_of_le _ (by decide), BitVec.setWidth_eq] at hfold

theorem gmul_eq_foldl (a b : Byte) : gmul a b = [7, 6, 5, 4, 3, 2, 1, 0].foldl (hornerStep a b) 0x00 :=
  setWidth_foldl_gfIterate a b _

theorem gfMulGeneral_eq_foldl (a b : Byte) : gfMulGeneral a b = [3, 2, 1, 0].foldl (hornerStep a b) 0x00 :=
  setWidth_foldl_gfIterate a b _

/-! ### The multipliers are linear in their second argument, and every linear function is a product -/

theorem fieldLinear_bitTerm (a : Byte) (k : Nat) : FieldLinear fun b => bitTerm a b k := by
  unfold bitTerm
  cases a.getLsbD k
  · exact .zero
  · exact .self

theorem fieldLinear_foldl_hornerStep (a : Byte) (ks : List Nat) {f : Byte → Byte} (hf : FieldLinear f) :
    FieldLinear fun b => ks.foldl (hornerStep a b) (f b) := by
  induction ks generalizing f with
  | nil => exact hf
  | cons k ks ih => exact ih (hf.xtime.xor (fieldLinear_bitTerm a k))

theorem fieldLinear_gmul (a : Byte) : FieldLinear (gmul a) := by
  simpa only [← gmul_eq_foldl] using fieldLinear_foldl_hornerStep a [7, 6, 5, 4, 3, 2, 1, 0] .zero

theorem fieldLinear_gfMulGeneral (a : Byte) : FieldLinear (gfMulGeneral a) := by
  simpa only [← gfMulGeneral_eq_foldl] using fieldLinear_foldl_hornerStep a [3, 2, 1, 0] .zero

theorem fieldLinear_gfMulSimple (a : SimpleConst) : FieldLinear (gfMulSimple a) := by
  cases a
  · exact .self
  · exact .xtime .self
  · exact .xor (.xtime .self) .self

theorem gmul_one (a : Byte) : gmul a 0x01 = a := by
  revert a
  decide

namespace FieldLinear

variable {f : Byte → Byte}

theorem map_hornerStep (hf : FieldLinear f) (a b x : Byte) (k : Nat) :
    f (hornerStep a b x k) = hornerStep a (f b) (f x) k := by
  have hterm : f (bitTerm a b k) = bitTerm a (f b) k := by
    unfold bitTerm
    cases a.getLsbD k
    · exact hf.map_zero
    · rfl
  rw [hornerStep, hf.map_xor, hf.map_xtime, hterm, hornerStep]

/-- A linear function passes through Horner's scheme step by step. -/
theorem map_gmul (hf : FieldLinear f) (a b : Byte) : f (gmul a b) = gmul a (f b) := by
  rw [gmul_eq_foldl, gmul_eq_foldl, ← List.foldl_hom f fun x k => (hf.map_hornerStep a b x k).symm, hf.map_zero]

theorem eq_gmul_map_one (hf : FieldLinear f) (b : Byte) : f b = gmul b (f 0x01) := by
  rw [← hf.map_gmul, gmul_one]

end FieldLinear

theorem gmul_comm (a b : Byte) : gmul a b = gmul b a := by
  rw [(fieldLinear_gmul a).eq_gmul_map_one, gmul_one]

/-- A linear function is the product by its value at the unit. -/
theorem FieldLinear.eq_gmul {f : Byte → Byte} (hf : FieldLinear f) {a : Byte} (hone : f 0x01 = a) (b : Byte) :
    f b = gmul a b := by
  rw [hf.eq_gmul_map_one, hone, gmul_comm]

/-! ### The multipliers of the engine (R95) -/

theorem xtime_eq_gmul (b : Byte) : xtime b = gmul 0x02 b :=
  FieldLinear.self.xtime.eq_gmul rfl b

theorem gfMulGeneral_eq_gmul_low (a b : Byte) : gfMulGeneral a b = gmul (a &&& 0x0F) b := by
  have hone : ∀ a : Byte, gfMulGeneral a 0x01 = a &&& 0x0F := by decide
  exact (fieldLinear_gfMulGeneral a).eq_gmul (hone a) b

theorem gfMulGeneral_eq_gmul {a : Byte} (ha : a &&& 0x0F = a) (b : Byte) : gfMulGeneral a b = gmul a b := by
  rw [gfMulGeneral_eq_gmul_low, ha]

/-- Settles O8: all of these functions are linear, so each clause compares two values at `0x01`. -/
theorem multipliersAgreeWithFieldProduct : Obligations.MultipliersAgreeWithFieldProduct := by
  have linear1 := FieldLinear.self
  have linear2 := linear1.xtime
  have linear4 := linear2.xtime
  have linear8 := linear4.xtime
  refine ⟨xtime_eq_gmul, fun a b => ?_, gfMulGeneral_eq_gmul_low, fun a ha => gfMulGeneral_eq_gmul ?_, fun b => ?_⟩
  · exact (fieldLinear_gfMulSimple a).eq_gmul (by cases a <;> rfl) b
  · revert a
    decide
  · refine ⟨?_, ?_, ?_, ?_⟩ <;> rw [gfMulGeneral_eq_gmul rfl, eq_comm]
    · exact (linear8.xor linear1).eq_gmul rfl b
    · exact ((linear8.xor linear2).xor linear1).eq_gmul rfl b
    · exact ((linear8.xor linear4).xor linear1).eq_gmul rfl b
    · exact ((linear8.xor linear4).xor linear2).eq_gmul rfl b

/-! ### The laws of the field product (R94) -/

theorem one_gmul (b : Byte) : gmul 0x01 b = b := by
  rw [gmul_comm, gmul_one]

theorem gmul_zero (a : Byte) : gmul a 0x00 = 0x00 :=
  (fieldLinear_gmul a).map_zero

theorem gmul_left_comm (a b c : Byte) : gmul a (gmul b c) = gmul b (gmul a c) :=
  (fieldLinear_gmul a).map_gmul b c

theorem gmul_assoc (a b c : Byte) : gmul a (gmul b c) = gmul (gmul a b) c := by
  rw [gmul_comm b c, gmul_left_comm, gmul_comm c]

theorem xor_gmul (a b c : Byte) : gmul (a ^^^ b) c = gmul a c ^^^ gmul b c := by
  simp only [gmul_comm _ c, (fieldLinear_gmul c).map_xor]

/-- The powers of a byte in the field. -/
def gpow (a : Byte) : Nat → Byte
  | 0 => 0x01
  | n + 1 => gmul a (gpow a n)

theorem gpow_add (a : Byte) (m n : Nat) : gpow a (m + n) = gmul (gpow a m) (gpow a n) := by
  induction m with
  | zero => rw [Nat.zero_add, gpow, one_gmul]
  | succ m ih => rw [Nat.succ_add, gpow, gpow, ih, gmul_assoc]

theorem gmul_gpow (a b : Byte) (n : Nat) : gpow (gmul a b) n = gmul (gpow a n) (gpow b n) := by
  induction n with
  | zero => rw [gpow, gpow, gpow, gmul_one]
  | succ n ih => rw [gpow, ih, ← gmul_assoc a b, gmul_left_comm b, gmul_assoc a, gpow, gpow]

/-- Squaring respects XOR, since the two mixed products cancel. -/
theorem xor_gmul_self (a b : Byte) : gmul (a ^^^ b) (a ^^^ b) = gmul a a ^^^ gmul b b := by
  rw [(fieldLinear_gmul _).map_xor, xor_gmul, xor_gmul, gmul_comm b a]
  simp [BitVec.xor_assoc]

theorem xor_gpow_two_pow (a b : Byte) (n : Nat) : gpow (a ^^^ b) (2 ^ n) = gpow a (2 ^ n) ^^^ gpow b (2 ^ n) := by
  induction n with
  | zero => simp only [Nat.pow_zero, gpow, gmul_one]
  | succ n ih => rw [Nat.pow_succ, Nat.mul_two, gpow_add, gpow_add, gpow_add, ih, xor_gmul_self]

/-- Fermat: `a` to the power 256 is field-linear in `a` and fixes the unit, so it is `a`. -/
theorem gpow_256 (a : Byte) : gpow a 256 = a := by
  have linear : FieldLinear fun a => gpow a 256 := by
    refine ⟨fun a b => xor_gpow_two_pow a b 8, fun a => ?_⟩
    have htwo : gpow 0x02 256 = 0x02 := by decide +kernel
    simp only [xtime_eq_gmul, gmul_gpow, htwo]
  exact (linear.eq_gmul (by decide +kernel) a).trans (one_gmul a)

/-- The modulus does not split: the unit is not the sum of two other idempotents. -/
theorem eq_zero_or_one_of_gmul_self {e : Byte} (h : gmul e e = e) : e = 0x00 ∨ e = 0x01 := by
  revert e
  decide

/-- The inverse of a non-zero byte: its power 255 is an idempotent. -/
theorem gmul_gpow_254 {a : Byte} (ha : a ≠ 0x00) : gmul a (gpow a 254) = 0x01 := by
  have habsorb : gmul a (gmul a (gpow a 254)) = a := gpow_256 a
  have hidempotent : gmul (gmul a (gpow a 254)) (gmul a (gpow a 254)) = gmul a (gpow a 254) := by
    rw [← gmul_assoc a, gmul_left_comm a (gpow a 254), habsorb, gmul_comm]
  obtain hzero | hone := eq_zero_or_one_of_gmul_self hidempotent
  · rw [hzero, gmul_zero] at habsorb
    exact absurd habsorb.symm ha
  · exact hone

/-- A factor that is not zero can be cancelled. -/
theorem eq_gmul_gpow_254 {a b c : Byte} (ha : a ≠ 0x00) (h : gmul a b = c) : b = gmul (gpow a 254) c := by
  rw [← h, gmul_assoc, gmul_comm (gpow a 254), gmul_gpow_254 ha, one_gmul]

/-- Settles O9: the ring laws from linearity, and the last two clauses by cancelling a non-zero factor. -/
theorem fieldProductLaws : Obligations.FieldProductLaws := by
  refine ⟨gmul_comm, one_gmul, fun b => ?_, fun a => (fieldLinear_gmul a).map_xor, gmul_assoc, fun a b h => ?_,
    fun a ha => ?_⟩
  · rw [gmul_comm, gmul_zero]
  · by_cases ha : a = 0x00
    · exact .inl ha
    · exact .inr ((eq_gmul_gpow_254 ha h).trans (gmul_zero _))
  · refine ⟨gpow a 254, gmul_gpow_254 ha, fun c hc => ?_⟩
    rw [eq_gmul_gpow_254 ha hc, gmul_one]

end Sys2Proof.Machine


/-! The statements of 41_substitution_tables.md: the substitution tables are inverse permutations (O10), the S-box is the
field inverse followed by an affine map (O11), the word operators (O12) and the round constants (O13). -/

namespace Sys2Proof.Machine

/-! ### The two tables as maps of bytes (R110, R111) -/

/-- The property that R111 fixes `INVSBOX` by, at every index. -/
@[simp] theorem invSubByte_subByte (x : Byte) : invSubByte (subByte x) = x := by
  revert x
  decide +kernel

theorem subByte_injective : Function.Injective subByte :=
  Function.LeftInverse.injective invSubByte_subByte

/-- A permutation of finitely many bytes: the one-sided inverse is two-sided. -/
@[simp] theorem subByte_invSubByte (x : Byte) : subByte (invSubByte x) = x := by
  have : Finite Byte := Finite.of_injective BitVec.toFin fun _ _ => BitVec.eq_of_toFin_eq
  have hsurjective : Function.Surjective subByte := Finite.surjective_of_injective subByte_injective
  exact Function.LeftInverse.rightInverse_of_surjective invSubByte_subByte hsurjective x

/-- Settles O10: the table check of R111 is one direction, and the other follows from it by counting. -/
theorem substitutionTablesAreInverse : Obligations.SubstitutionTablesAreInverse := fun x =>
  ⟨invSubByte_subByte x, subByte_invSubByte x⟩

/-! ### The S-box by its formula (R110) -/

/-- `y` is the inverse of `x` in the field, with `0x00` as the inverse of `0x00` (R110). -/
def IsFieldInverse (x y : Byte) : Prop := gmul x y = 0x01 ∨ (x = 0x00 ∧ y = 0x00)

/-- The map that R110 applies after the field inverse. -/
def affine (y : Byte) : Byte :=
  y ^^^ y.rotateLeft 1 ^^^ y.rotateLeft 2 ^^^ y.rotateLeft 3 ^^^ y.rotateLeft 4 ^^^ 0x63#8

/-- The inverse of `affine`: it recovers the field inverse from an entry of the S-box. -/
def invAffine (z : Byte) : Byte :=
  z.rotateLeft 1 ^^^ z.rotateLeft 3 ^^^ z.rotateLeft 6 ^^^ 0x05#8

theorem affine_invAffine (z : Byte) : affine (invAffine z) = z := by
  revert z
  decide

theorem isFieldInverse_zero (y : Byte) : IsFieldInverse 0x00 y ↔ y = 0x00 := by
  have hone : gmul 0x00 y ≠ 0x01 := by
    rw [gmul_comm, gmul_zero]
    decide
  exact ⟨fun h => (h.resolve_left hone).2, fun h => .inr ⟨rfl, h⟩⟩

theorem isFieldInverse_of_ne_zero {x : Byte} (hx : x ≠ 0x00) (y : Byte) : IsFieldInverse x y ↔ gmul x y = 0x01 :=
  or_iff_left fun h => hx h.1

theorem IsFieldInverse.unique {x y z : Byte} (hy : IsFieldInverse x y) (hz : IsFieldInverse x z) : y = z := by
  by_cases hx : x = 0x00
  · rw [hx, isFieldInverse_zero] at hy hz
    rw [hy, hz]
  · rw [isFieldInverse_of_ne_zero hx] at hy hz
    rw [eq_gmul_gpow_254 hx hy, eq_gmul_gpow_254 hx hz]

/-- The listing against the formula, at every index: undoing the affine map on an entry leaves the inverse of the index. -/
theorem isFieldInverse_invAffine_subByte (x : Byte) : IsFieldInverse x (invAffine (subByte x)) := by
  unfold IsFieldInverse
  revert x
  decide +kernel

theorem subByte_eq_affine {x y : Byte} (h : IsFieldInverse x y) : subByte x = affine y := by
  rw [h.unique (isFieldInverse_invAffine_subByte x), affine_invAffine]

theorem subByte_ne_self_and_ne_complement (x : Byte) : subByte x ≠ x ∧ subByte x ≠ x ^^^ 0xFF#8 := by
  revert x
  decide +kernel

/-- Settles O11: the field inverse is unique, so the formula holds once the listing is checked against it. -/
theorem sboxIsInverseThenAffine : Obligations.SboxIsInverseThenAffine :=
  ⟨fun _ _ => subByte_eq_affine, fun x => ⟨_, isFieldInverse_invAffine_subByte x⟩, fun _ _ h => subByte_injective h,
    subByte_ne_self_and_ne_complement⟩

/-! ### The word operators (R114, R115) -/

theorem subWord_eq_packWord (w : Word) :
    subWord w = packWord (subByte (byteOfWord w 3)) (subByte (byteOfWord w 2)) (subByte (byteOfWord w 1))
      (subByte (byteOfWord w 0)) := rfl

theorem byteOfWord_subWord (w : Word) {k : Nat} (hk : k < 4) : byteOfWord (subWord w) k = subByte (byteOfWord w k) := by
  rw [subWord_eq_packWord]
  obtain ⟨h3, h2, h1, h0⟩ := byteOfWord_packWord (subByte (byteOfWord w 3)) (subByte (byteOfWord w 2))
    (subByte (byteOfWord w 1)) (subByte (byteOfWord w 0))
  interval_cases k
  · exact h0
  · exact h1
  · exact h2
  · exact h3

/-- `rotWord` as a rotation of the number: the low 24 bits move up by a byte, and the top byte comes below them. -/
theorem toNat_rotWord (w : Word) : (rotWord w).toNat = (w.toNat % 2 ^ 24) * 2 ^ 8 + w.toNat / 2 ^ 24 := by
  have htop : w.toNat / 2 ^ 24 < 2 ^ 8 := by omega
  rw [rotWord, BitVec.toNat_append, BitVec.extractLsb'_toNat, BitVec.extractLsb'_toNat, Nat.shiftRight_zero,
    Nat.shiftRight_eq_div_pow, Nat.mod_eq_of_lt htop, ← Nat.shiftLeft_add_eq_or_of_lt htop, Nat.shiftLeft_eq]

theorem rotWord_eq_packWord (w : Word) :
    rotWord w = packWord (byteOfWord w 2) (byteOfWord w 1) (byteOfWord w 0) (byteOfWord w 3) := by
  unfold rotWord packWord byteOfWord
  simp only [Nat.reduceMul, BitVec.extractLsb'_append_extractLsb'_eq_extractLsb']

theorem rotWord_packWord (b3 b2 b1 b0 : Byte) : rotWord (packWord b3 b2 b1 b0) = packWord b2 b1 b0 b3 := by
  obtain ⟨h3, h2, h1, h0⟩ := byteOfWord_packWord b3 b2 b1 b0
  rw [rotWord_eq_packWord, h3, h2, h1, h0]

theorem rotWord_rotWord_rotWord_rotWord (w : Word) : rotWord (rotWord (rotWord (rotWord w))) = w := by
  rw [← packWord_byteOfWord w]
  simp only [rotWord_packWord]

/-- Settles O12: both operators act on the packed bytes. -/
theorem wordOperators : Obligations.WordOperators :=
  ⟨fun w _ => byteOfWord_subWord w, rotWord_packWord, toNat_rotWord, rotWord_rotWord_rotWord_rotWord⟩

/-! ### The round constants (R116) -/

theorem RCON_succ (j : Nat) (hj : j < 9) :
    RCON[j + 1] = packWord (xtime (byteOfWord RCON[j] 3)) 0x00 0x00 0x00 := by
  revert j
  decide

/-- Settles O13: every index the statement names lies in the table, where the accessor reads the entry. -/
theorem rconIsXtimeChain : Obligations.RconIsXtimeChain := by
  refine ⟨rfl, fun j hj => ?_, fun j => rconAt_of_lt j.val j.isLt, rfl, rfl, rfl⟩
  rw [rconAt_of_lt (j + 1) (by omega), rconAt_of_lt j (by omega), RCON_succ j hj]

end Sys2Proof.Machine


/-! The statements of 42_round_transforms.md: what each of the seven transforms does to the cells and leaves unchanged
(O19 to O25), the two matrices (O14), how the State functions undo each other and mix linearly (O27, O28), and the round
compositions (O29). The column mixes are read as products by a matrix over the field, the row shifts as sums of column
indices. -/

namespace Sys2Proof.Machine

/-! ### Micro-operations that transform the State (R130) -/

/-- From `s`, whatever has become of `ST` and `UPC` since, the micro-operation `i` applies `f` to the cells and advances. -/
def RunsTransform (s : State) (i : Instr) (f : Cells → Cells) : Prop :=
  ∀ st u, exec i { s with st := st, upc := u } = .next { s with st := f st, upc := u + 1 }

theorem runsTransform_subb (s : State) : RunsTransform s .subb subBytes := fun _ _ => rfl
theorem runsTransform_isubb (s : State) : RunsTransform s .isubb invSubBytes := fun _ _ => rfl
theorem runsTransform_shr (s : State) : RunsTransform s .shr shiftRows := fun _ _ => rfl
theorem runsTransform_ishr (s : State) : RunsTransform s .ishr invShiftRows := fun _ _ => rfl
theorem runsTransform_mixc (s : State) : RunsTransform s .mixc mixColumns := fun _ _ => rfl
theorem runsTransform_imixc (s : State) : RunsTransform s .imixc invMixColumns := fun _ _ => rfl

/-- `ARK K` is a transform where `K` is not reserved (R76, R137). -/
theorem runsTransform_ark {s : State} {k : BitVec 4} (hk : k.toNat ≤ 14) (hnr : k.toNat ≤ s.nr.toNat) :
    RunsTransform s (.ark k) (addRoundKey s.w (rkbase s.dir k.toNat s.nr.toNat)) :=
  fun _ _ => if_pos ⟨hk, hnr⟩

theorem RunsTransform.exec_eq {s : State} {i : Instr} {f : Cells → Cells} (h : RunsTransform s i f) :
    exec i s = .next { s with st := f s.st, upc := s.upc + 1 } := h s.st s.upc

/-- A list of transforms, run from any cells and any `UPC`, applies their State functions in order. -/
theorem execList_from_of_runsTransform {s : State} {is : List Instr} {fs : List (Cells → Cells)}
    (h : List.Forall₂ (RunsTransform s) is fs) (st : Cells) (u : BitVec 6) :
    execList is { s with st := st, upc := u } =
      .next { s with st := fs.foldl (fun st f => f st) st, upc := u + BitVec.ofNat 6 is.length } := by
  induction h generalizing st u with
  | nil => rw [List.length_nil, BitVec.add_zero]; rfl
  | @cons i f is fs hi _ ih =>
    have hupc : u + 1 + BitVec.ofNat 6 is.length = u + BitVec.ofNat 6 (i :: is).length := by
      rw [List.length_cons, Nat.add_comm, BitVec.ofNat_add, BitVec.add_assoc]
      rfl
    rw [execList, hi, ← hupc]
    exact ih (f st) (u + 1)

theorem execList_of_runsTransform {s : State} {is : List Instr} {fs : List (Cells → Cells)}
    (h : List.Forall₂ (RunsTransform s) is fs) :
    execList is s =
      .next { s with st := fs.foldl (fun st f => f st) s.st, upc := s.upc + BitVec.ofNat 6 is.length } :=
  execList_from_of_runsTransform h s.st s.upc

/-! ### Substitution (R131, R132) -/

theorem getElem?_SBOX (x : Byte) : SBOX[x.toNat]? = some (subByte x) := Vector.getElem?_eq_getElem x.isLt

theorem getElem?_INVSBOX (x : Byte) : INVSBOX[x.toNat]? = some (invSubByte x) := Vector.getElem?_eq_getElem x.isLt

/-- Settles O19, by the transform rule and the table lookup. -/
theorem subbSubstitutesEveryCell : Obligations.SubbSubstitutesEveryCell := by
  refine ⟨decodeOfEncode .subb rfl, fun s => ⟨_, (runsTransform_subb s).exec_eq, fun r c => ?_, rfl⟩⟩
  rw [cell_subBytes, getElem?_SBOX]

/-- Settles O20, by the transform rule and the table lookup. -/
theorem isubbSubstitutesEveryCell : Obligations.IsubbSubstitutesEveryCell := by
  refine ⟨decodeOfEncode .isubb rfl, fun s => ⟨_, (runsTransform_isubb s).exec_eq, fun r c => ?_, rfl⟩⟩
  rw [cell_invSubBytes, getElem?_INVSBOX]

/-! ### The row shifts as sums of column indices (R133, R134) -/

@[simp] theorem columnPlus_val (c r : Fin 4) : columnPlus c r.val = c + r := rfl

@[simp] theorem columnPlus_four_sub_val (c r : Fin 4) : columnPlus c (4 - r.val) = c - r := by
  apply Fin.ext
  rw [Fin.val_sub, Nat.add_comm]
  rfl

/-- Row `r` has gone round `r` times. -/
theorem shiftRows_four_times (st : Cells) : shiftRows (shiftRows (shiftRows (shiftRows st))) = st := by
  have hround : ∀ r c : Fin 4, c + r + r + r + r = c := by decide
  exact cells_ext fun r c => by simp [hround]

/-- Settles O21: one `SHR` by its column index, four of them as a list of transforms. -/
theorem shrRotatesRowsLeft : Obligations.ShrRotatesRowsLeft := by
  refine ⟨decodeOfEncode .shr rfl, fun s => ⟨_, (runsTransform_shr s).exec_eq, fun r c => ?_, rfl⟩, fun s => ?_⟩
  · rw [cell_shiftRows, columnPlus_val]
  · have hshr := runsTransform_shr s
    have hrun := execList_of_runsTransform (.cons hshr (.cons hshr (.cons hshr (.cons hshr .nil))))
    simpa [shiftRows_four_times] using hrun

/-- Settles O22: the two shifts agree where the row number is its own negative modulo 4. -/
theorem ishrRotatesRowsRight : Obligations.IshrRotatesRowsRight := by
  refine ⟨decodeOfEncode .ishr rfl, fun s => ⟨_, (runsTransform_ishr s).exec_eq, fun r c => ?_, rfl, fun u hu c => ?_⟩⟩
  · rw [cell_invShiftRows, columnPlus_four_sub_val]
  · have hself : ∀ c : Fin 4, c + 0 = c - 0 ∧ c + 2 = c - 2 := by decide
    obtain ⟨hzero, htwo⟩ := hself c
    rw [(runsTransform_shr s).exec_eq] at hu
    cases hu
    simp only [cell_shiftRows, cell_invShiftRows, columnPlus_val, columnPlus_four_sub_val, hzero, htwo, and_self]

/-! ### The column mixes, written out (R135, R136) -/

/-- Settles O23: the four rows of the product, with the entries of `MC` read. -/
theorem mixcMultipliesColumns : Obligations.MixcMultipliesColumns := by
  refine ⟨decodeOfEncode .mixc rfl, fun s => ⟨_, (runsTransform_mixc s).exec_eq, fun c => ?_, rfl⟩⟩
  exact ⟨cell_mixColumns s.st 0 c, cell_mixColumns s.st 1 c, cell_mixColumns s.st 2 c, cell_mixColumns s.st 3 c⟩

/-- Settles O24: the four rows of the product, with the entries of `IMC` read. -/
theorem imixcMultipliesColumns : Obligations.ImixcMultipliesColumns := by
  refine ⟨decodeOfEncode .imixc rfl, fun s => ⟨_, (runsTransform_imixc s).exec_eq, fun c => ?_, rfl⟩⟩
  exact ⟨cell_invMixColumns s.st 0 c, cell_invMixColumns s.st 1 c, cell_invMixColumns s.st 2 c,
    cell_invMixColumns s.st 3 c⟩

/-! ### Adding a round key (R137, R163) -/

theorem toNat_le_of_legal_nr {nr : BitVec 4} (h : nr ∈ [10#4, 12#4, 14#4]) : nr.toNat ≤ 14 := by
  revert h nr
  decide

theorem rkbase_eq_ite (d : Dir) (k nr : Nat) : rkbase d k nr = if d = .enc then 4 * k else 4 * (nr - k) := by
  cases d <;> rfl

/-- In either direction a round key begins at most at word `4*NR`. -/
theorem rkbase_le (d : Dir) {k nr : Nat} (h : k ≤ nr) : rkbase d k nr ≤ 4 * nr := by
  cases d <;> simp only [rkbase] <;> omega

theorem getElem?_roundKeyWord (w : Schedule) {base : Nat} (c : Fin 4) (h : base ≤ 56) :
    w[base + c.val]? = some (roundKeyWord w base c) := by
  rw [roundKeyWord, readW_of_lt w _ (by omega)]
  exact Vector.getElem?_eq_getElem _

/-- The word of `ARK K` as the field code `0x3` beside `K` (R73). -/
theorem ark_word_eq_append (k : BitVec 4) : 0x30#8 + k.setWidth 8 = 0x3#4 ++ k := by
  revert k
  decide

/-- Settles O25: with a legal `NR` no `K` up to it is reserved, and the round key lies inside `W`. -/
theorem arkAddsRoundKey : Obligations.ArkAddsRoundKey := by
  refine ⟨fun k hk => ?_, fun s k hlegal hk => ?_⟩
  · rw [ark_word_eq_append]
    exact decodeOfEncode (.ark k) (decide_eq_true hk)
  · have hnr := toNat_le_of_legal_nr hlegal
    have hbase := rkbase_le s.dir hk
    refine ⟨_, (runsTransform_ark (by omega) hk).exec_eq, fun c => ?_, rfl⟩
    rw [← rkbase_eq_ite]
    exact ⟨_, getElem?_roundKeyWord s.w c (by omega), cell_addRoundKey _ _ _ 0 c, cell_addRoundKey _ _ _ 1 c,
      cell_addRoundKey _ _ _ 2 c, cell_addRoundKey _ _ _ 3 c⟩

/-! ### Matrices over the field -/

/-- Settles O14, entry by entry. -/
theorem matricesAreCirculantInverses : Obligations.MatricesAreCirculantInverses := by
  refine ⟨rfl, rfl, ?_, ?_⟩ <;> decide

/-- The product of a 4 by 4 matrix over the field and a column. -/
def mulColumn (m : Fin 4 → Fin 4 → Byte) (v : Fin 4 → Byte) (r : Fin 4) : Byte :=
  gmul (m r 0) (v 0) ^^^ gmul (m r 1) (v 1) ^^^ gmul (m r 2) (v 2) ^^^ gmul (m r 3) (v 3)

/-- The product of two matrices, column by column. -/
def mulMatrix (m n : Fin 4 → Fin 4 → Byte) (r c : Fin 4) : Byte := mulColumn m (fun k => n k c) r

/-- The identity matrix. -/
def identityMatrix (r c : Fin 4) : Byte := if r = c then 0x01 else 0x00

theorem mulColumn_xor (m : Fin 4 → Fin 4 → Byte) (u v : Fin 4 → Byte) (r : Fin 4) :
    mulColumn m (fun k => u k ^^^ v k) r = mulColumn m u r ^^^ mulColumn m v r := by
  simp only [mulColumn, (fieldLinear_gmul _).map_xor]
  ac_rfl

/-- On a column of four equal bytes a row acts by the sum of its entries. -/
theorem mulColumn_const {m : Fin 4 → Fin 4 → Byte} {r : Fin 4} (hsum : m r 0 ^^^ m r 1 ^^^ m r 2 ^^^ m r 3 = 0x01)
    (x : Byte) : mulColumn m (fun _ => x) r = x := by
  rw [mulColumn, ← xor_gmul, ← xor_gmul, ← xor_gmul, hsum, one_gmul]

theorem mulColumn_mulColumn (m n : Fin 4 → Fin 4 → Byte) (v : Fin 4 → Byte) :
    mulColumn m (mulColumn n v) = mulColumn (mulMatrix m n) v := by
  funext r
  simp only [mulColumn, mulMatrix, (fieldLinear_gmul _).map_xor, xor_gmul, gmul_assoc]
  ac_rfl

theorem identityMatrix_gmul (r c : Fin 4) (b : Byte) : gmul (identityMatrix r c) b = if r = c then b else 0x00 := by
  rw [identityMatrix]
  split
  · exact one_gmul b
  · rw [gmul_comm, gmul_zero]

theorem mulColumn_identityMatrix (v : Fin 4 → Byte) : mulColumn identityMatrix v = v := by
  funext r
  match r with
  | 0 | 1 | 2 | 3 => simp [mulColumn, identityMatrix_gmul]

/-- Two matrices whose product is the identity undo each other on columns. -/
theorem mulColumn_cancel {m n : Fin 4 → Fin 4 → Byte} (h : mulMatrix m n = identityMatrix) (v : Fin 4 → Byte) :
    mulColumn m (mulColumn n v) = v := by
  rw [mulColumn_mulColumn, h, mulColumn_identityMatrix]

/-! ### The column mixes as matrix products (R135, R136, R141) -/

/-- The entries of `MC` as bytes. -/
def mcByte (r k : Fin 4) : Byte := MC[r][k].toByte

/-- The entries of `IMC`. -/
def imcByte (r k : Fin 4) : Byte := IMC[r][k]

theorem mulMatrix_imcByte_mcByte : mulMatrix imcByte mcByte = identityMatrix := by
  obtain ⟨-, -, -, hproduct⟩ := matricesAreCirculantInverses
  funext r c
  exact hproduct r c

theorem mulMatrix_mcByte_imcByte : mulMatrix mcByte imcByte = identityMatrix := by
  have entries : ∀ r c, mulMatrix mcByte imcByte r c = identityMatrix r c := by decide
  funext r c
  exact entries r c

/-- Column `c` of the State, by row. -/
def column (st : Cells) (c r : Fin 4) : Byte := cell st r c

theorem cells_ext_column {a b : Cells} (h : ∀ c, column a c = column b c) : a = b :=
  cells_ext fun r c => congrFun (h c) r

theorem cell_mixColumns_eq_mulColumn (st : Cells) (r c : Fin 4) :
    cell (mixColumns st) r c = mulColumn mcByte (column st c) r := by
  obtain ⟨-, hsimple, -⟩ := multipliersAgreeWithFieldProduct
  rw [cell_mixColumns, hsimple, hsimple, hsimple, hsimple]
  rfl

theorem cell_invMixColumns_eq_mulColumn (st : Cells) (r c : Fin 4) :
    cell (invMixColumns st) r c = mulColumn imcByte (column st c) r := by
  have hlow : ∀ r k, imcByte r k &&& 0x0F = imcByte r k := by decide
  have hgeneral (k : Fin 4) (b : Byte) : gfMulGeneral (imcByte r k) b = gmul (imcByte r k) b :=
    gfMulGeneral_eq_gmul (hlow r k) b
  rw [cell_invMixColumns, mulColumn, ← hgeneral, ← hgeneral, ← hgeneral, ← hgeneral]
  rfl

theorem column_mixColumns (st : Cells) (c : Fin 4) : column (mixColumns st) c = mulColumn mcByte (column st c) :=
  funext fun r => cell_mixColumns_eq_mulColumn st r c

theorem column_invMixColumns (st : Cells) (c : Fin 4) :
    column (invMixColumns st) c = mulColumn imcByte (column st c) :=
  funext fun r => cell_invMixColumns_eq_mulColumn st r c

/-! ### Pairs of transforms (R138) -/

@[simp] theorem invSubBytes_subBytes (st : Cells) : invSubBytes (subBytes st) = st := cells_ext fun r c => by simp

@[simp] theorem subBytes_invSubBytes (st : Cells) : subBytes (invSubBytes st) = st := cells_ext fun r c => by simp

@[simp] theorem invShiftRows_shiftRows (st : Cells) : invShiftRows (shiftRows st) = st := cells_ext fun r c => by simp

@[simp] theorem shiftRows_invShiftRows (st : Cells) : shiftRows (invShiftRows st) = st := cells_ext fun r c => by simp

@[simp] theorem invMixColumns_mixColumns (st : Cells) : invMixColumns (mixColumns st) = st :=
  cells_ext_column fun c => by
    rw [column_invMixColumns, column_mixColumns, mulColumn_cancel mulMatrix_imcByte_mcByte]

@[simp] theorem mixColumns_invMixColumns (st : Cells) : mixColumns (invMixColumns st) = st :=
  cells_ext_column fun c => by
    rw [column_mixColumns, column_invMixColumns, mulColumn_cancel mulMatrix_mcByte_imcByte]

@[simp] theorem addRoundKey_addRoundKey (w : Schedule) (base : Nat) (st : Cells) :
    addRoundKey w base (addRoundKey w base st) = st :=
  cells_ext fun r c => by simp

/-- What is done to each cell alone can be done before or after the rows are shifted. -/
theorem shiftRows_cellwise (f : Byte → Byte) (st : Cells) :
    shiftRows (cellsOf fun r c => f (cell st r c)) = cellsOf fun r c => f (cell (shiftRows st) r c) :=
  cells_ext fun r c => by simp

theorem invShiftRows_cellwise (f : Byte → Byte) (st : Cells) :
    invShiftRows (cellsOf fun r c => f (cell st r c)) = cellsOf fun r c => f (cell (invShiftRows st) r c) :=
  cells_ext fun r c => by simp

/-- Settles O27: substitution undoes itself cell by cell, the shifts by their column indices, the mixes by the two matrix
products; a substitution acts on each cell alone and so commutes with the shifts. -/
theorem transformsUndoTheirPartners : Obligations.TransformsUndoTheirPartners :=
  ⟨fun st => ⟨invSubBytes_subBytes st, subBytes_invSubBytes st⟩,
    fun st => ⟨invShiftRows_shiftRows st, shiftRows_invShiftRows st⟩,
    fun st => ⟨invMixColumns_mixColumns st, mixColumns_invMixColumns st⟩,
    addRoundKey_addRoundKey,
    fun st => ⟨(shiftRows_cellwise subByte st).symm, (invShiftRows_cellwise subByte st).symm,
      (shiftRows_cellwise invSubByte st).symm, (invShiftRows_cellwise invSubByte st).symm⟩⟩

/-- Settles O28: a matrix product is linear in its column, and the entries of every row of `MC` and of `IMC` add up to
`0x01`. -/
theorem columnMixesAreLinear : Obligations.ColumnMixesAreLinear := by
  intro a b sum
  have hsum (c : Fin 4) : column sum c = fun r => column a c r ^^^ column b c r := funext fun r => cell_cellsOf _ r c
  have hrow : ∀ r, mcByte r 0 ^^^ mcByte r 1 ^^^ mcByte r 2 ^^^ mcByte r 3 = 0x01 ∧
      imcByte r 0 ^^^ imcByte r 1 ^^^ imcByte r 2 ^^^ imcByte r 3 = 0x01 := by decide
  simp only [cell_mixColumns_eq_mulColumn, cell_invMixColumns_eq_mulColumn, hsum]
  refine ⟨fun r c => mulColumn_xor _ _ _ r, fun r c => mulColumn_xor _ _ _ r, fun c hequal r => ?_⟩
  obtain ⟨hmc, himc⟩ := hrow r
  have hconst : column a c = fun _ => cell a 0 c := funext hequal
  rw [hconst, mulColumn_const hmc, mulColumn_const himc, hequal r]
  exact ⟨rfl, rfl⟩

/-! ### The round compositions (R142 to R145) -/

theorem toNat_ofNat_of_inner {i : Nat} {nr : BitVec 4} (h : i + 1 ≤ nr.toNat) : (BitVec.ofNat 4 i).toNat = i := by
  rw [BitVec.toNat_ofNat]
  omega

theorem arkAt_toNat (k : BitVec 4) : arkAt k.toNat = .ark k := by
  rw [arkAt, BitVec.ofNat_toNat, BitVec.setWidth_eq]

/-- Settles O29: each composition is a list of transforms, in which neither `ARK` is reserved, and the base of its round key is
that of the direction. -/
theorem roundCompositions : Obligations.RoundCompositions := by
  intro s i hlegal _ hi
  have hnr := toNat_le_of_legal_nr hlegal
  have htoNat := toNat_ofNat_of_inner hi
  have hinner := runsTransform_ark (s := s) (k := BitVec.ofNat 4 i) (by omega) (by omega)
  have hlast := runsTransform_ark (s := s) hnr le_rfl
  rw [htoNat] at hinner
  refine ⟨fun hdir => ?_, fun hdir => ?_⟩ <;> rw [hdir] at hinner hlast
  · refine ⟨?_, ?_, rfl, ?_⟩
    · exact execList_of_runsTransform (.cons (runsTransform_subb s) (.cons (runsTransform_shr s)
        (.cons (runsTransform_mixc s) (.cons hinner .nil))))
    · exact execList_of_runsTransform (.cons (runsTransform_subb s) (.cons (runsTransform_shr s) (.cons hlast .nil)))
    · rw [expandPseudo, arkAt_toNat]
  · have hbase : rkbase .dec s.nr.toNat s.nr.toNat = 0 := by simp [rkbase]
    rw [hbase] at hlast
    refine ⟨?_, ?_, rfl, ?_⟩
    · exact execList_of_runsTransform (.cons (runsTransform_ishr s) (.cons (runsTransform_isubb s)
        (.cons hinner (.cons (runsTransform_imixc s) .nil))))
    · exact execList_of_runsTransform (.cons (runsTransform_ishr s) (.cons (runsTransform_isubb s) (.cons hlast .nil)))
    · rw [expandPseudo, arkAt_toNat]

end Sys2Proof.Machine


/-! The statements of 43_key_scheduler.md: the words that `KEXP` leaves in `W`, on every register value (O59) and on the pairs
that `CHKLEN` writes (O30), what they depend on (O31), and the order in which `ARK` reads them (O26). -/

namespace Sys2Proof.Machine

/-! ### Elements that exist (R57) -/

theorem getElem?_eq_some_readW (w : Schedule) {i : Nat} (h : i < 60) : w[i]? = some (readW w i) := by
  rw [readW_of_lt w i h, Vector.getElem?_eq_getElem]

theorem readW_of_getElem? {w : Schedule} {i : Nat} {x : Word} (h : w[i]? = some x) : readW w i = x := by
  rw [readW, h, Option.getD_some]

theorem getElem?_eq_of_readW {w w' : Schedule} {i : Nat} (h : readW w i = readW w' i) : w[i]? = w'[i]? := by
  by_cases hi : i < 60
  · rw [getElem?_eq_some_readW w hi, getElem?_eq_some_readW w' hi, h]
  · rw [Vector.getElem?_eq_none (by omega), Vector.getElem?_eq_none (by omega)]

theorem keyByte_of_getElem? {key : KeyBuffer} {j : Nat} {b : Byte} (h : key[j]? = some b) : keyByte key j = b := by
  rw [keyByte, h, Option.getD_some]

theorem rconAt_of_getElem? {j : Nat} {rc : Word} (h : RCON[j]? = some rc) : rconAt j = rc := by
  rw [rconAt, h, Option.getD_some]

theorem keyWord_of_getElem? {key : KeyBuffer} {i : Nat} {b3 b2 b1 b0 : Byte} (h3 : key[4 * i]? = some b3)
    (h2 : key[4 * i + 1]? = some b2) (h1 : key[4 * i + 2]? = some b1) (h0 : key[4 * i + 3]? = some b0) :
    keyWord key i = packWord b3 b2 b1 b0 := by
  rw [keyWord, keyByte_of_getElem? h3, keyByte_of_getElem? h2, keyByte_of_getElem? h1, keyByte_of_getElem? h0]

/-! ### The three cases of `temp` (R160) -/

theorem scheduleTemp_multiple {nk i : Nat} (hnk : 0 < nk) (h : i % nk = 0) (prev : Word) :
    scheduleTemp nk i prev = subWord (rotWord prev) ^^^ rconAt (i / nk - 1) := by
  rw [scheduleTemp, if_neg hnk.ne', if_pos h]

theorem scheduleTemp_middle {nk i : Nat} (h : i % nk ≠ 0) (hnk : 6 < nk) (hmiddle : i % nk = 4) (prev : Word) :
    scheduleTemp nk i prev = subWord prev := by
  rw [scheduleTemp, if_neg (by omega), if_neg h, if_pos ⟨hnk, hmiddle⟩]

theorem scheduleTemp_other {nk i : Nat} (hnk : 0 < nk) (h : i % nk ≠ 0) (hmiddle : ¬(6 < nk ∧ i % nk = 4))
    (prev : Word) : scheduleTemp nk i prev = prev := by
  rw [scheduleTemp, if_neg hnk.ne', if_neg h, if_neg hmiddle]

/-! ### The word file after `KEXP`, element by element (R160) -/

theorem getElem?_expandKey_key (nk nr : Nat) (key : KeyBuffer) (w : Schedule) {i : Nat} (hi : i < nk) (h60 : i < 60) :
    (expandKey nk nr key w)[i]? = some (keyWord key i) := by
  rw [getElem?_eq_some_readW _ h60, expandKey_key nk nr key w hi h60]

theorem getElem?_expandKey_recurrence (nk nr : Nat) (key : KeyBuffer) (w : Schedule) {i : Nat} (hnk : 0 < nk)
    (h1 : nk ≤ i) (h2 : i < 4 * (nr + 1)) (h60 : i < 60) : ∃ prev back,
    (expandKey nk nr key w)[i - 1]? = some prev ∧ (expandKey nk nr key w)[i - nk]? = some back ∧
      (expandKey nk nr key w)[i]? = some (back ^^^ scheduleTemp nk i prev) := by
  refine ⟨_, _, getElem?_eq_some_readW _ (by omega), getElem?_eq_some_readW _ (by omega), ?_⟩
  rw [getElem?_eq_some_readW _ h60, expandKey_recurrence nk nr key w hnk h1 h2 h60]

/-- Settles O59: the model's laws of `W` hold at every `NK` and `NR`, and `temp` has its three cases at every `NK` but 0; a
round key XORs the columns word by word. -/
theorem kexpAndArkRunOnEveryRegisterValue : Obligations.KexpAndArkRunOnEveryRegisterValue := by
  refine ⟨fun s => ⟨_, execKexp_next s, fun i hi b3 b2 b1 b0 h3 h2 h1 h0 => ?_, fun i hzero h1 h2 h60 => ?_,
    fun i h1 h2 => getElem?_eq_of_readW (expandKey_above _ _ _ _ h1 h2), rfl⟩,
    fun s k hk hnr => ⟨_, (runsTransform_ark hk hnr).exec_eq, fun c x hx => ?_, rfl⟩⟩
  · rw [← keyWord_of_getElem? h3 h2 h1 h0]
    exact getElem?_expandKey_key _ _ _ _ hi (by omega)
  · have hnk : 0 < s.nk.toNat := by bv_omega
    obtain ⟨prev, back, hprev, hback, hword⟩ := getElem?_expandKey_recurrence _ _ s.key s.w hnk h1 h2 h60
    refine ⟨prev, back, hprev, hback, fun hmultiple rc hrc => ?_, fun hmod h6 hmiddle => ?_, fun hmod hmiddle => ?_⟩
    · rwa [scheduleTemp_multiple hnk hmultiple, rconAt_of_getElem? hrc] at hword
    · rwa [scheduleTemp_middle hmod h6 hmiddle] at hword
    · rwa [scheduleTemp_other hnk hmod hmiddle] at hword
  · rw [← rkbase_eq_ite] at hx
    rw [columnWord_addRoundKey, roundKeyWord, readW_of_getElem? hx]

/-! ### The pairs that `CHKLEN` writes (R6, R23) -/

theorem legal_pair_bounds {nk nr : BitVec 4} (h : (nk, nr) ∈ [(4#4, 10#4), (6#4, 12#4), (8#4, 14#4)]) :
    4 ≤ nk.toNat ∧ nk.toNat ≤ 8 ∧ nr.toNat = nk.toNat + 6 := by
  revert h nk nr
  decide

/-- Settles O30 from O59: on a legal pair every key byte, word and round constant that R160 names exists. -/
theorem kexpFillsScheduleByRecurrence : Obligations.KexpFillsScheduleByRecurrence := by
  refine ⟨decodeOfEncode .kexp rfl, fun s hlegal => ?_⟩
  obtain ⟨h4, h8, hnr⟩ := legal_pair_bounds hlegal
  obtain ⟨t, hexec, hkey, hrec, habove, hframe⟩ := kexpAndArkRunOnEveryRegisterValue.1 s
  refine ⟨t, hexec, fun i hi => ?_, fun i h1 h2 => ?_, fun i hi => habove i (by omega) hi, hframe⟩
  · have hbyte (j : Nat) (hj : j < 32) : s.key[j]? = some s.key[j] := Vector.getElem?_eq_getElem hj
    have h3 := hbyte (4 * i) (by omega)
    have h2 := hbyte (4 * i + 1) (by omega)
    have h1 := hbyte (4 * i + 2) (by omega)
    have h0 := hbyte (4 * i + 3) (by omega)
    exact ⟨_, _, _, _, h3, h2, h1, h0, hkey i hi _ _ _ _ h3 h2 h1 h0⟩
  · obtain ⟨prev, back, hprev, hback, hmultiple, hmiddle, hother⟩ := hrec i (by bv_omega) h1 h2 (by omega)
    refine ⟨prev, back, hprev, hback, fun hmod => ?_, hmiddle, hother⟩
    have hdiv : i / s.nk.toNat < 11 := Nat.div_lt_of_lt_mul (by omega)
    have hrc : RCON[i / s.nk.toNat - 1]? = some _ := Vector.getElem?_eq_getElem (by omega)
    exact ⟨_, hrc, hmultiple hmod _ hrc⟩

/-! ### What the used words depend on (R166) -/

theorem keyWord_congr {key key' : KeyBuffer} {n i : Nat} (h : ∀ j < 4 * n, key[j]? = key'[j]?) (hi : i < n) :
    keyWord key i = keyWord key' i := by
  have hbyte (j : Nat) (hj : j < 4 * n) : keyByte key j = keyByte key' j := by rw [keyByte, keyByte, h j hj]
  rw [keyWord, keyWord, hbyte _ (by omega), hbyte _ (by omega), hbyte _ (by omega), hbyte _ (by omega)]

/-- Each used word is a key word or follows from two earlier used words. -/
theorem readW_expandKey_congr {nk nr : Nat} {key key' : KeyBuffer} (w w' : Schedule) (hnk : 0 < nk)
    (hkey : ∀ i < nk, keyWord key i = keyWord key' i) {i : Nat} (h2 : i < 4 * (nr + 1)) (h60 : i < 60) :
    readW (expandKey nk nr key w) i = readW (expandKey nk nr key' w') i := by
  induction i using Nat.strongRecOn with
  | ind i ih =>
    obtain hi | h1 := Nat.lt_or_ge i nk
    · rw [expandKey_key _ _ _ _ hi h60, expandKey_key _ _ _ _ hi h60, hkey i hi]
    · rw [expandKey_recurrence nk nr key w hnk h1 h2 h60, expandKey_recurrence nk nr key' w' hnk h1 h2 h60,
        ih (i - nk) (by omega) (by omega) (by omega), ih (i - 1) (by omega) (by omega) (by omega)]

/-- Settles O31, by induction along the recurrence. -/
theorem scheduleDependsOnKeyOnly : Obligations.ScheduleDependsOnKeyOnly := by
  intro s1 s2 hlegal hnk hnr hkey
  obtain ⟨h4, h8, hrounds⟩ := legal_pair_bounds hlegal
  refine ⟨_, _, execKexp_next s1, execKexp_next s2, fun i hi => getElem?_eq_of_readW ?_,
    fun i hi => getElem?_expandKey_key _ _ _ _ hi (by omega)⟩
  rw [advance_w, advance_w, ← hnk, ← hnr]
  exact readW_expandKey_congr _ _ (by omega) (fun j hj => keyWord_congr hkey hj) hi (by omega)

/-! ### The two orders of the round keys (R162, R163) -/

/-- Step `K` of a decryption begins where step `NR - K` of an encryption does. -/
theorem rkbase_dec_eq_rkbase_enc (k nr : Nat) : rkbase .dec k nr = rkbase .enc (nr - k) nr := rfl

/-- Settles O26: both `ARK`s complete, and their round keys begin at the same word. -/
theorem decryptionReversesRoundKeys : Obligations.DecryptionReversesRoundKeys := by
  intro s k hlegal hk
  have hnr := toNat_le_of_legal_nr hlegal
  have hsub : (s.nr - k).toNat = s.nr.toNat - k.toNat := BitVec.toNat_sub_of_le hk
  have hdec := runsTransform_ark (s := { s with dir := .dec }) (k := k) (by omega) hk
  have henc := runsTransform_ark (s := { s with dir := .enc }) (k := s.nr - k) (by omega) (by dsimp only; omega)
  refine ⟨_, _, hdec.exec_eq, henc.exec_eq, ?_⟩
  rw [rkbase_dec_eq_rkbase_enc, hsub]

end Sys2Proof.Machine


/-! The statements of 44_cipher_engine.md: the micro-operations of the engine and the acceptance of a command (O15 to O17, O32,
O33, O35), the micro-programs and the step that runs them (O37 to O40), the response (O48), and whole commands: what `Run` gives
(O53 to O55), and that the steps of a command come to it (O50, O51). -/

namespace Sys2Proof.Machine

/-! ### Load and store (R51, R52, R183, R184) -/

theorem getElem?_block_cell (b : Block) (r c : Fin 4) : b[r.val + 4 * c.val]? = some b[blockIndex r c] :=
  Vector.getElem?_eq_getElem (blockIndex r c).isLt

@[simp] theorem loadCells_storeCells (st : Cells) : loadCells (storeCells st) = st :=
  cells_ext fun r c => by rw [cell_loadCells, storeCells_get]

@[simp] theorem storeCells_loadCells (b : Block) : storeCells (loadCells b) = b := by
  have hbyte : ∀ n : Fin 16, (storeCells (loadCells b))[n] = b[n] := by
    intro n
    obtain ⟨r, c, rfl⟩ := blockIndex_surjective n
    rw [storeCells_get, cell_loadCells]
  exact Vector.ext fun n hn => hbyte ⟨n, hn⟩

/-- Settles O15, by the cell that R51 gives each byte. -/
theorem ldstLoadsColumnByColumn : Obligations.LdstLoadsColumnByColumn := by
  refine ⟨decodeOfEncode .ldst rfl, fun s => ⟨_, rfl, fun r c => ?_, rfl⟩⟩
  rw [getElem?_block_cell, advance_st, cell_loadCells]

/-- Settles O16, by the byte that R52 gives each cell. -/
theorem ststStoresAndEndsCommand : Obligations.StstStoresAndEndsCommand := by
  refine ⟨decodeOfEncode .stst rfl, fun s => ⟨_, rfl, fun r c => ?_, rfl⟩⟩
  rw [getElem?_block_cell, endOk_dout, advance_dout, storeCells_get]

/-- Settles O17: the two byte mappings are inverse to each other. -/
theorem loadAndStoreAreInverse : Obligations.LoadAndStoreAreInverse := by
  refine ⟨fun s t h => ?_, loadCells_storeCells⟩
  cases h
  exact storeCells_loadCells s.din

/-! ### Acceptance (R181) -/

/-- The two commands are one acceptance, by direction (R185, R186). -/
theorem exec_command (d : Dir) (klen blen : BitVec 8) (s : State) :
    exec (if d = .enc then .enc klen blen else .dec klen blen) s = accept d klen blen s := by
  cases d <;> rfl

theorem accept_of_idle {s : State} (h : s.busy = false) (d : Dir) (klen blen : BitVec 8) :
    accept d klen blen s = .next (acceptCommand d klen blen s) := by
  simp [accept, h]

theorem accept_of_busy {s : State} (h : s.busy = true) (d : Dir) (klen blen : BitVec 8) :
    accept d klen blen s = .fault .acceptanceNotEnabled := by
  simp [accept, h]

theorem getElem?_latchKey {klen : BitVec 8} {shown : List Byte} {j : Nat} (n : Nat) (hj : j < klen.toNat) (h32 : j < 32)
    (hshown : j < shown.length) : (latchKey klen shown n)[j]? = shown[j]? := by
  simp [latchKey, shownByte, hj, h32, hshown]

theorem getElem?_latchBlock {blen : BitVec 8} {shown : List Byte} {j : Nat} (n : Nat) (hj : j < blen.toNat) (h16 : j < 16)
    (hshown : j < shown.length) : (latchBlock blen shown n)[j]? = shown[j]? := by
  simp [latchBlock, shownByte, hj, h16, hshown]

/-- Settles O32: an idle engine takes either command, and both buffers take the bytes that are counted and shown. -/
theorem acceptanceLatchesTheCommand : Obligations.AcceptanceLatchesTheCommand := by
  intro s d klen blen
  rw [exec_command]
  refine ⟨fun hbusy t => ?_, fun hidle => ⟨_, accept_of_idle hidle d klen blen, rfl, rfl, rfl, fun j hj hshown => ?_,
    fun j hj hshown => ?_, rfl, rfl, rfl, rfl, rfl, rfl⟩⟩
  · rw [accept_of_busy hbusy]
    nofun
  · obtain ⟨hcount, h32⟩ := lt_min_iff.mp hj
    exact getElem?_latchKey s.freeCount hcount h32 hshown
  · obtain ⟨hcount, h16⟩ := lt_min_iff.mp hj
    exact getElem?_latchBlock s.freeCount hcount h16 hshown

/-- Settles O33: both commands are acceptances. -/
theorem commandsStopWhileBusy : Obligations.CommandsStopWhileBusy := fun _ klen blen h =>
  ⟨accept_of_busy h .enc klen blen, accept_of_busy h .dec klen blen⟩

/-! ### The length check (R182, R213, R214) -/

theorem execChklen_of_key_illegal {s : State} (h : variantOfKeyLength s.klen = none) :
    execChklen s = .next (raiseError .invalidKeyLength s) := by
  simp [execChklen, h]

theorem execChklen_of_block_illegal {s : State} {v : Variant} (h : variantOfKeyLength s.klen = some v)
    (hblen : s.blen ≠ 16#8) : execChklen s = .next (raiseError .invalidBlockLength s) := by
  simp [execChklen, h, hblen]

theorem execChklen_of_legal {s : State} {v : Variant} (h : variantOfKeyLength s.klen = some v) (hblen : s.blen = 16#8) :
    execChklen s = .next (advance { s with nk := BitVec.ofNat 4 v.nk, nr := BitVec.ofNat 4 v.nr }) := by
  simp [execChklen, h, hblen]

theorem exists_variantOfKeyLength_iff (k : BitVec 8) : (∃ v, variantOfKeyLength k = some v) ↔ k ∈ [16#8, 24#8, 32#8] := by
  constructor
  · rintro ⟨v, hv⟩
    obtain ⟨rfl, -⟩ | ⟨rfl, -⟩ | ⟨rfl, -⟩ := variantOfKeyLength_cases hv <;> decide
  · intro hk
    simp only [List.mem_cons, List.not_mem_nil, or_false] at hk
    obtain rfl | rfl | rfl := hk <;> exact ⟨_, rfl⟩

theorem variantOfKeyLength_eq_none {k : BitVec 8} (h : k ∉ [16#8, 24#8, 32#8]) : variantOfKeyLength k = none := by
  rw [← exists_variantOfKeyLength_iff] at h
  exact Option.eq_none_iff_forall_ne_some.mpr fun v hv => h ⟨v, hv⟩

/-- Settles O35: the legal key lengths are those that select a variant. -/
theorem chklenChecksLengths : Obligations.ChklenChecksLengths := by
  refine ⟨decodeOfEncode .chklen rfl, fun s hblen => ⟨fun hk => ?_, fun hk => ?_, fun hk => ?_⟩,
    fun s => ⟨fun hk => ⟨s.upc, ?_⟩, fun hk hblen => ⟨s.upc, ?_⟩⟩, rfl, rfl, rfl⟩
  · exact execChklen_of_legal (v := .aes128) (by rw [hk]; rfl) hblen
  · exact execChklen_of_legal (v := .aes192) (by rw [hk]; rfl) hblen
  · exact execChklen_of_legal (v := .aes256) (by rw [hk]; rfl) hblen
  · exact execChklen_of_key_illegal (variantOfKeyLength_eq_none hk)
  · obtain ⟨v, hv⟩ := (exists_variantOfKeyLength_iff _).mpr hk
    exact execChklen_of_block_illegal hv hblen

/-! ### `Run` (R190) -/

theorem runCommand_of_key_illegal {klen : BitVec 8} (h : variantOfKeyLength klen = none) (d : Dir) (blen : BitVec 8)
    (key : KeyBuffer) (b : Block) : runCommand d klen blen key b = .err .invalidKeyLength := by
  simp [runCommand, h]

theorem runCommand_of_block_illegal {klen blen : BitVec 8} {v : Variant} (h : variantOfKeyLength klen = some v)
    (hblen : blen ≠ 16#8) (d : Dir) (key : KeyBuffer) (b : Block) :
    runCommand d klen blen key b = .err .invalidBlockLength := by
  simp [runCommand, h, hblen]

theorem runCommand_of_legal {klen : BitVec 8} {v : Variant} (h : variantOfKeyLength klen = some v) (d : Dir)
    (key : KeyBuffer) (b : Block) : runCommand d klen 16#8 key b =
      .ok (storeCells (runRounds d (expandKey v.nk v.nr key blankSchedule) v.nr (loadCells b))) := by
  simp [runCommand, h]

/-- Settles O54, by the three cases of `Run`. -/
theorem legalLengthsAlwaysSucceed : Obligations.LegalLengthsAlwaysSucceed := by
  intro d klen blen key b
  rw [← exists_variantOfKeyLength_iff]
  cases hv : variantOfKeyLength klen with
  | none => simp [runCommand_of_key_illegal hv]
  | some v =>
    by_cases hblen : blen = 16#8
    · simp [hblen, runCommand_of_legal hv]
    · simp [hblen, runCommand_of_block_illegal hv hblen]

/-! ### `Run` reads the used words of `W` only (R164, R166) -/

theorem addRoundKey_congr {w w' : Schedule} {nr base : Nat} (h : ∀ i < 4 * (nr + 1), readW w i = readW w' i)
    (hbase : base ≤ 4 * nr) (st : Cells) : addRoundKey w base st = addRoundKey w' base st := by
  refine cells_ext fun r c => ?_
  rw [cell_addRoundKey, cell_addRoundKey, roundKeyWord, roundKeyWord, h _ (by omega)]

theorem runInner_congr {w w' : Schedule} {nr i : Nat} (h : ∀ i < 4 * (nr + 1), readW w i = readW w' i) (hi : i ≤ nr)
    (d : Dir) (st : Cells) : runInner d w nr st i = runInner d w' nr st i := by
  cases d <;> simp only [runInner] <;> rw [addRoundKey_congr h (rkbase_le _ hi)]

theorem runFinal_congr {w w' : Schedule} {nr : Nat} (h : ∀ i < 4 * (nr + 1), readW w i = readW w' i) (d : Dir)
    (st : Cells) : runFinal d w nr st = runFinal d w' nr st := by
  cases d <;> simp only [runFinal] <;> rw [addRoundKey_congr h (rkbase_le _ le_rfl)]

theorem runRounds_congr {w w' : Schedule} {nr : Nat} (h : ∀ i < 4 * (nr + 1), readW w i = readW w' i) (d : Dir)
    (st : Cells) : runRounds d w nr st = runRounds d w' nr st := by
  rw [runRounds, runRounds, addRoundKey_congr h (rkbase_le d (Nat.zero_le nr)), runFinal_congr h]
  congr 1
  refine List.foldl_ext _ _ _ fun st i hi => runInner_congr h ?_ d st
  rw [List.mem_range'_1] at hi
  omega

theorem variant_nk_pos (v : Variant) : 0 < v.nk := by cases v <;> decide

/-- What the word file held before the expansion, and the key bytes not in use, make no difference to the rounds. -/
theorem runRounds_expandKey_congr {klen : BitVec 8} {v : Variant} (hv : variantOfKeyLength klen = some v)
    {key key' : KeyBuffer} (hkey : ∀ j < klen.toNat, key[j]? = key'[j]?) (w w' : Schedule) (d : Dir) (st : Cells) :
    runRounds d (expandKey v.nk v.nr key w) v.nr st = runRounds d (expandKey v.nk v.nr key' w') v.nr st := by
  have hnk := variant_nk_pos v
  have hklen : klen.toNat = 4 * v.nk := by
    obtain ⟨rfl, rfl⟩ | ⟨rfl, rfl⟩ | ⟨rfl, rfl⟩ := variantOfKeyLength_cases hv <;> rfl
  have hnr := (variant_nr_bounds v).2
  rw [hklen] at hkey
  exact runRounds_congr (fun i hi => readW_expandKey_congr w w' hnk (fun j hj => keyWord_congr hkey hj) hi (by omega)) d st

/-- `Run` depends on the key bytes in use, and on the block only where its length is legal. -/
theorem runCommand_congr (d : Dir) {klen blen : BitVec 8} {key key' : KeyBuffer} {b b' : Block}
    (hkey : ∀ j < klen.toNat, key[j]? = key'[j]?) (hb : blen = 16#8 → b = b') :
    runCommand d klen blen key b = runCommand d klen blen key' b' := by
  cases hv : variantOfKeyLength klen with
  | none => rw [runCommand_of_key_illegal hv, runCommand_of_key_illegal hv]
  | some v =>
    by_cases hblen : blen = 16#8
    · rw [hb hblen, hblen, runCommand_of_legal hv, runCommand_of_legal hv, runRounds_expandKey_congr hv hkey]
    · rw [runCommand_of_block_illegal hv hblen, runCommand_of_block_illegal hv hblen]

/-- Settles O55: the used words of `W` depend on the key bytes in use, and the rounds on the used words. -/
theorem runReadsOnlyTheKeyBytesInUse : Obligations.RunReadsOnlyTheKeyBytesInUse := fun d _ _ _ _ _ hkey =>
  runCommand_congr d hkey fun _ => rfl

/-! ### Decryption undoes encryption round by round (R146, R162) -/

/-- What a round of an encryption does before it mixes and adds its round key; a decryption passes through the same States. -/
def substituteAndShift (st : Cells) : Cells := shiftRows (subBytes st)

theorem invSubBytes_invShiftRows_substituteAndShift (st : Cells) :
    invSubBytes (invShiftRows (substituteAndShift st)) = st := by
  rw [substituteAndShift, invShiftRows_shiftRows, invSubBytes_subBytes]

/-- Inner round `NR - i` of the decryption undoes inner round `i` of the encryption, between the two substitutions. -/
theorem runInner_dec_undoes_enc (w : Schedule) {nr i : Nat} (hi : i ≤ nr) (st : Cells) :
    runInner .dec w nr (substituteAndShift (runInner .enc w nr st i)) (nr - i) = substituteAndShift st := by
  have hbase : rkbase .dec (nr - i) nr = rkbase .enc i nr := by simp only [rkbase]; omega
  simp only [runInner, invSubBytes_invShiftRows_substituteAndShift, hbase, addRoundKey_addRoundKey,
    invMixColumns_mixColumns]
  rw [substituteAndShift]

/-- The last `n` inner rounds of the decryption undo the first `n` of the encryption. -/
theorem foldl_runInner_dec_undoes_enc (w : Schedule) {nr n : Nat} (hn : n ≤ nr) (st : Cells) :
    (List.range' (nr - n) n).foldl (runInner .dec w nr)
      (substituteAndShift ((List.range' 1 n).foldl (runInner .enc w nr) st)) = substituteAndShift st := by
  induction n with
  | zero => rfl
  | succ n ih =>
    have hnext : nr - (n + 1) + 1 = nr - n := by omega
    rw [List.range'_concat, List.foldl_concat, Nat.one_mul, Nat.add_comm 1 n, List.range'_succ, List.foldl_cons,
      runInner_dec_undoes_enc w hn, hnext, ih (by omega)]

theorem runRounds_dec_runRounds_enc (w : Schedule) {nr : Nat} (hnr : 1 ≤ nr) (st : Cells) :
    runRounds .dec w nr (runRounds .enc w nr st) = st := by
  have hlast : rkbase .dec 0 nr = rkbase .enc nr nr := rfl
  have hfirst : rkbase .dec nr nr = rkbase .enc 0 nr := by simp [rkbase]
  have hinner := foldl_runInner_dec_undoes_enc w (Nat.sub_le nr 1) (addRoundKey w (rkbase .enc 0 nr) st)
  rw [Nat.sub_sub_self hnr] at hinner
  rw [runRounds, runRounds, runFinal, runFinal, hlast, hfirst, addRoundKey_addRoundKey, ← substituteAndShift, hinner,
    invSubBytes_invShiftRows_substituteAndShift, addRoundKey_addRoundKey]

theorem finite_cells : Finite Cells := by
  have : Finite Byte := Finite.of_injective BitVec.toFin fun _ _ => BitVec.eq_of_toFin_eq
  exact Finite.of_injective cell fun a b h => cells_ext fun r c => congrFun (congrFun h r) c

/-- There are finitely many States, so what undoes the encryption is undone by it. -/
theorem runRounds_enc_runRounds_dec (w : Schedule) {nr : Nat} (hnr : 1 ≤ nr) (st : Cells) :
    runRounds .enc w nr (runRounds .dec w nr st) = st := by
  have := finite_cells
  have hleft : Function.LeftInverse (runRounds .dec w nr) (runRounds .enc w nr) := runRounds_dec_runRounds_enc w hnr
  exact hleft.rightInverse_of_surjective (Finite.surjective_of_injective hleft.injective) st

theorem storeCells_eq_iff (st : Cells) (b : Block) : storeCells st = b ↔ st = loadCells b := by
  constructor
  · rintro rfl
    rw [loadCells_storeCells]
  · rintro rfl
    rw [storeCells_loadCells]

/-- Settles O53: the rounds of the two directions are inverse maps of the State. -/
theorem decryptionInvertsEncryption : Obligations.DecryptionInvertsEncryption := by
  intro klen key p c hklen
  obtain ⟨v, hv⟩ := (exists_variantOfKeyLength_iff klen).mpr hklen
  have hnr := (variant_nr_bounds v).1
  simp only [runCommand_of_legal hv, Response.ok.injEq, storeCells_eq_iff]
  constructor
  · intro henc
    rw [← henc, runRounds_dec_runRounds_enc _ hnr]
  · intro hdec
    rw [← hdec, runRounds_enc_runRounds_dec _ hnr]

/-! ### The micro-programs by index (R187, R188) -/

/-- Entry `j` of the `k`-th of consecutive groups of four. -/
theorem getElem?_flatMap_range' {α : Type} {f : Nat → List α} (hf : ∀ i, (f i).length = 4) {a n k j : Nat} (hk : k < n)
    (hj : j < 4) : ((List.range' a n).flatMap f)[4 * k + j]? = (f (a + k))[j]? := by
  induction k generalizing a n with
  | zero =>
    obtain ⟨n, rfl⟩ := Nat.exists_eq_add_of_lt hk
    rw [Nat.zero_add, List.range'_succ, List.flatMap_cons, List.getElem?_append_left (by rw [hf]; omega)]
    congr 1
    omega
  | succ k ih =>
    obtain ⟨n, rfl⟩ := Nat.exists_eq_add_of_lt hk
    have hindex : 4 * (k + 1) + j - 4 = 4 * k + j := by omega
    rw [List.range'_succ, List.flatMap_cons, List.getElem?_append_right (by rw [hf]; omega), hf, hindex, ih (by omega),
      Nat.add_assoc, Nat.add_comm 1]

/-- The final round begins at index `4*NR`. -/
theorem length_uprog_before_final (d : Dir) {nr : Nat} (hnr : 1 ≤ nr) :
    ([.chklen, .kexp, .ldst, arkAt 0] ++
      (List.range' 1 (nr - 1)).flatMap fun i => expandPseudo nr (innerRound d i)).length = 4 * nr := by
  simp [List.length_flatMap, length_expandPseudo_innerRound]
  omega

theorem getElem?_uprog_final (d : Dir) {nr : Nat} (hnr : 1 ≤ nr) (j : Nat) (hj : j < 3) :
    (uprog d nr)[4 * nr + j]? = (expandPseudo nr (finalRound d))[j]? := by
  have hlength := length_uprog_before_final d hnr
  rw [uprog, List.append_assoc, List.getElem?_append_right (by omega), hlength, Nat.add_sub_cancel_left,
    List.getElem?_append_left (by rwa [length_expandPseudo_finalRound])]

/-- Inner round `i` stands at indices `4i` to `4i + 3`. -/
theorem getElem?_uprog_inner (d : Dir) {nr i : Nat} (h1 : 1 ≤ i) (hi : i + 1 ≤ nr) (j : Nat) (hj : j < 4) :
    (uprog d nr)[4 * i + j]? = (expandPseudo nr (innerRound d i))[j]? := by
  obtain ⟨k, rfl⟩ := Nat.exists_eq_add_of_le h1
  have hlength := length_uprog_before_final d (nr := nr) (by omega)
  have hindex : 4 * (1 + k) + j - 4 = 4 * k + j := by omega
  have hround := getElem?_flatMap_range' (length_expandPseudo_innerRound d nr) (a := 1) (n := nr - 1) (k := k) (by omega) hj
  rw [uprog, List.append_assoc, List.getElem?_append_left (by omega), List.getElem?_append_right (by simp; omega), ← hround,
    ← hindex]
  rfl

/-- Settles O37: the ends, the inner rounds and the final round each at their indices; the two lists of words are computed. -/
theorem microProgramsByIndex : Obligations.MicroProgramsByIndex := by
  refine ⟨fun d nr hnr => ⟨length_uprog d hnr, rfl, rfl, rfl, rfl, uprog_getElem?_last d hnr⟩, fun nr i h1 hi => ?_,
    fun nr hnr => ?_, rfl, rfl⟩
  · have hinner (d : Dir) (j : Nat) (hj : j < 4) := getElem?_uprog_inner d h1 hi j hj
    exact ⟨hinner .enc 0 (by decide), hinner .enc 1 (by decide), hinner .enc 2 (by decide), hinner .enc 3 (by decide),
      hinner .dec 0 (by decide), hinner .dec 1 (by decide), hinner .dec 2 (by decide), hinner .dec 3 (by decide)⟩
  · have hfinal (d : Dir) (j : Nat) (hj : j < 3) := getElem?_uprog_final d hnr j hj
    exact ⟨hfinal .enc 0 (by decide), hfinal .enc 1 (by decide), hfinal .enc 2 (by decide),
      hfinal .dec 0 (by decide), hfinal .dec 1 (by decide), hfinal .dec 2 (by decide)⟩

/-! ### One step, by what the host does next (R180, log entry 5) -/

section

variable {s : State} {rest : List HostAction}

theorem step_of_script_nil (h : s.env.script = []) : step s = engineStep s := by
  simp [step, stepAgents, h]

theorem step_of_wait (h : s.env.script = .wait :: rest) : step s = engineStep (setScript rest s) := by
  simp [step, stepAgents, h]

theorem step_of_readResponse (h : s.env.script = .readResponse :: rest) :
    step s = .next (hostRead (setScript rest s)) := by
  simp [step, stepAgents, h]

theorem step_of_present_busy {cmd : BitVec 17} {key blk : List Byte} (h : s.env.script = .present cmd key blk :: rest)
    (hbusy : s.busy = true) : step s = engineStep s := by
  simp [step, stepAgents, h, hbusy]

theorem step_of_present_idle {cmd : BitVec 17} {key blk : List Byte} (h : s.env.script = .present cmd key blk :: rest)
    (hidle : s.busy = false) : step s = exec (decodeCommand cmd) (driveLines key blk (setScript rest s)) := by
  simp [step, stepAgents, h, hidle, execWord, decode]

end

/-- Settles O38: the sequencer runs the word at `UPC` wherever the host leaves the step to it. -/
theorem stepRunsDecodedInstruction : Obligations.StepRunsDecodedInstruction := by
  refine ⟨fun s w i hbusy hfetch hdecode => ⟨fun h => ?_, fun rest h => ?_, fun cmd key blk rest h => ?_⟩,
    fun s cmd key blk rest i hidle h hdecode => ?_⟩
  · rw [step_of_script_nil h, engineStep_busy hbusy, sequencerStep_of_decode hfetch hdecode]
  · have hrun : sequencerStep (setScript rest s) = exec i (setScript rest s) := sequencerStep_of_decode hfetch hdecode
    rw [step_of_wait h, engineStep_busy (s := setScript rest s) hbusy, hrun]
  · rw [step_of_present_busy h hbusy, engineStep_busy hbusy, sequencerStep_of_decode hfetch hdecode]
  · cases hdecode
    exact step_of_present_idle h hidle

/-! ### Placing a word (log entry 6) -/

theorem length_uprog_le (d : Dir) (nr : BitVec 4) : (uprog d nr.toNat).length ≤ 64 := by
  obtain hzero | hpos := Nat.eq_zero_or_pos nr.toNat
  · rw [hzero]
    cases d <;> decide
  · rw [length_uprog d hpos]
    omega

/-- The state that a selection of a program, an index and one step of waiting make of `s`. -/
def placedAt (s : State) (d : Dir) (nk nr : BitVec 4) (upc : BitVec 6) : State :=
  { s with
    busy := true
    dir := d
    nk := nk
    nr := nr
    upc := upc
    env := { s.env with script := .wait :: s.env.script } }

/-- A micro-operation that some selection's micro-program holds is placed at its index in one of them. -/
theorem placeUop_of_mem {i : Instr} (s : State) {selections : List (Dir × BitVec 4 × BitVec 4)}
    (h : ∃ p ∈ selections, i ∈ uprog p.1 p.2.2.toNat) : ∃ d nk nr upc,
    placeUop i s selections = placedAt s d nk nr upc ∧ (uprog d nr.toNat)[upc.toNat]? = some i := by
  induction selections with
  | nil => simp at h
  | cons p selections ih =>
    obtain ⟨d, nk, nr⟩ := p
    cases hfind : (uprog d nr.toNat).idxOf? i with
    | none =>
      have hnot : i ∉ uprog d nr.toNat := List.idxOf?_eq_none_iff.mp hfind
      have hplace : placeUop i s ((d, nk, nr) :: selections) = placeUop i s selections := by simp only [placeUop, hfind]
      rw [hplace]
      exact ih (by simpa [hnot] using h)
    | some u =>
      have hfound : (uprog d nr.toNat)[u]? = some i := by
        obtain ⟨hlt, hentry, -⟩ := List.idxOf?_eq_some_iff.mp hfind
        exact List.getElem?_eq_some_iff.mpr ⟨hlt, hentry⟩
      refine ⟨d, nk, nr, BitVec.ofNat 6 u, by simp only [placeUop, hfind, placedAt], ?_⟩
      obtain ⟨hlt, -⟩ := List.getElem?_eq_some_iff.mp hfound
      have hle := length_uprog_le d nr
      rwa [BitVec.toNat_ofNat, Nat.mod_eq_of_lt (by omega)]

/-- The programs of 14 rounds hold every micro-operation between them. -/
theorem mem_uprog_fourteen {i : Instr} {w : BitVec 8} (hwf : i.wf = true) (hw : encode i = .uop w) :
    i ∈ uprog .enc 14 ∨ i ∈ uprog .dec 14 := by
  cases i with
  | enc k b | dec k b => cases hw
  | ark k =>
    have hark : ∀ k : BitVec 4, (Instr.ark k).wf = true → Instr.ark k ∈ uprog .enc 14 := by decide
    exact .inl (hark k hwf)
  | chklen | kexp | ldst | subb | shr | mixc | stst => exact .inl (by decide)
  | isubb | ishr | imixc => exact .inr (by decide)

theorem exists_selection_holding {i : Instr} {w : BitVec 8} (s : State) (hwf : i.wf = true) (hw : encode i = .uop w) :
    ∃ p ∈ selections i s, i ∈ uprog p.1 p.2.2.toNat := by
  obtain henc | hdec := mem_uprog_fourteen hwf hw
  · exact ⟨(.enc, 8#4, 14#4), by simp [selections], henc⟩
  · exact ⟨(.dec, 8#4, 14#4), by simp [selections], hdec⟩

theorem withFetchWord_of_encode_uop {i : Instr} {w : BitVec 8} (s : State) (hwf : i.wf = true) (hw : encode i = .uop w) :
    s.withFetchWord 8 w.toNat = placeUop i s (selections i s) := by
  have hdecode : decodeUop w = .instr i := by
    have h := decodeOfEncode i hwf
    rwa [hw] at h
  have hword : wordOfTable 8 w.toNat = some (.uop w) := by simp [wordOfTable, w.isLt]
  simp only [State.withFetchWord, placeWord, hword, hdecode]

theorem withFetchWord_command (s : State) (w : BitVec 17) : s.withFetchWord 17 w.toNat =
    { s with busy := false, env := { s.env with script := .present w s.env.key s.env.blk :: s.env.script } } := by
  have hword : wordOfTable 17 w.toNat = some (.command w) := by simp [wordOfTable, w.isLt]
  simp only [State.withFetchWord, placeWord, hword]

theorem wf_of_encode_command {i : Instr} {w : BitVec 17} (hw : encode i = .command w) : i.wf = true := by
  cases i with
  | ark k => cases hw
  | _ => rfl

/-- Settles O39: the placed micro-operation stands at `UPC` of the selected program, and the placed command next in the host's
script. -/
theorem placedWordRunsNext : Obligations.PlacedWordRunsNext := by
  obtain ⟨hsequencer, hhost⟩ := stepRunsDecodedInstruction
  refine ⟨fun s i w hwf hw => ?_, fun s i w hw => ?_⟩
  · obtain ⟨d, nk, nr, upc, hplace, hat⟩ := placeUop_of_mem s (exists_selection_holding s hwf hw)
    have hfetch : fetchWord (placedAt s d nk nr upc) = some (encode i) := by
      rw [fetchWord_eq]
      exact congrArg _ hat
    obtain ⟨-, hwait, -⟩ := hsequencer _ _ i rfl hfetch (decodeOfEncode i hwf)
    rw [withFetchWord_of_encode_uop s hwf hw, hplace]
    exact ⟨d, nk, nr, upc, hwait _ rfl⟩
  · rw [withFetchWord_command]
    exact hhost _ _ _ _ _ i rfl rfl (hw ▸ decodeOfEncode i (wf_of_encode_command hw))

/-! ### The response (R192) -/

theorem busy_of_exec_decodeCommand {cmd : BitVec 17} {s t : State} (h : exec (decodeCommand cmd) s = .next t) :
    t.busy = true := by
  obtain ⟨k, b, hcmd | hcmd⟩ := decodeCommand_cases cmd <;> rw [hcmd] at h <;>
    obtain ⟨-, rfl⟩ := eq_acceptCommand_of_accept h <;> rfl

/-- Settles O48: a read writes no field that the response is made of; an engine with a response is idle, so that only reset and
acceptance are left to take it away. -/
theorem responseStaysReadable : Obligations.ResponseStaysReadable := by
  refine ⟨fun s => ⟨fun h => ?_, fun h hstatus => ?_, fun h hstatus => ?_, fun h hstatus => ?_⟩,
    fun s rest h => step_of_readResponse h, fun s t hinv hrvalid h => ?_⟩
  · simp [response, h]
  · simp [response, h, hstatus]
  · simp [response, h, hstatus]
  · simp [response, h, hstatus]
  · have hidle : s.busy = false := by
      by_contra hbusy
      rw [hinv.1 (by simpa using hbusy)] at hrvalid
      cases hrvalid
    obtain ⟨-, hstep⟩ | ⟨rest, -, hstep⟩ | ⟨rest, -, hstep⟩ | ⟨rest, hscript, -⟩ | ⟨_, _, _, _, -, hbusy, -⟩ |
      ⟨cmd, key, blk, rest, hscript, -, hstep⟩ := step_cases s
    · rw [hstep, engineStep_idle hidle] at h
      cases h
      exact .inl rfl
    · rw [hstep, engineStep_idle (s := setScript rest s) hidle] at h
      cases h
      exact .inl rfl
    · rw [hstep] at h
      cases h
      exact .inl rfl
    · exact .inr (.inl ⟨rest, hscript⟩)
    · simp [hidle] at hbusy
    · exact .inr (.inr ⟨cmd, key, blk, rest, hscript, busy_of_exec_decodeCommand (hstep ▸ h)⟩)

/-! ### The micro-operations between `KEXP` and `STST` as State functions (R142 to R145, R187, R188) -/

/-- A micro-program's part from `ARK 0` to its last `ARK`. -/
def roundUops (d : Dir) (nr : Nat) : List Instr :=
  arkAt 0 :: ((List.range' 1 (nr - 1)).flatMap fun i => expandPseudo nr (innerRound d i)) ++ expandPseudo nr (finalRound d)

theorem uprog_eq (d : Dir) (nr : Nat) : uprog d nr = [.chklen, .kexp] ++ (.ldst :: roundUops d nr ++ [.stst]) := by
  simp [uprog, roundUops]

theorem length_roundUops (d : Dir) {nr : Nat} (hnr : 1 ≤ nr) : (roundUops d nr).length = 4 * nr := by
  have hlength := length_uprog d hnr
  rw [uprog_eq] at hlength
  simpa using hlength

/-- The State functions of an inner round, in order. -/
def innerTransforms (d : Dir) (w : Schedule) (nr i : Nat) : List (Cells → Cells) :=
  match d with
  | .enc => [subBytes, shiftRows, mixColumns, addRoundKey w (rkbase .enc i nr)]
  | .dec => [invShiftRows, invSubBytes, addRoundKey w (rkbase .dec i nr), invMixColumns]

/-- The State functions of the final round, in order. -/
def finalTransforms (d : Dir) (w : Schedule) (nr : Nat) : List (Cells → Cells) :=
  match d with
  | .enc => [subBytes, shiftRows, addRoundKey w (rkbase .enc nr nr)]
  | .dec => [invShiftRows, invSubBytes, addRoundKey w (rkbase .dec nr nr)]

/-- The State functions of `roundUops`, in order. -/
def roundTransforms (d : Dir) (w : Schedule) (nr : Nat) : List (Cells → Cells) :=
  addRoundKey w (rkbase d 0 nr) :: ((List.range' 1 (nr - 1)).flatMap (innerTransforms d w nr)) ++ finalTransforms d w nr

/-- Applied in order, the State functions of the rounds are the rounds of `Run`. -/
theorem foldl_roundTransforms (d : Dir) (w : Schedule) (nr : Nat) (st : Cells) :
    (roundTransforms d w nr).foldl (fun st f => f st) st = runRounds d w nr st := by
  rw [roundTransforms, List.cons_append, List.foldl_cons, List.foldl_append, List.foldl_flatMap, runRounds]
  cases d <;> rfl

section

variable {s : State}

theorem runsTransform_arkAt {i : Nat} (hi : i ≤ s.nr.toNat) (hnr : s.nr.toNat ≤ 14) :
    RunsTransform s (arkAt i) (addRoundKey s.w (rkbase s.dir i s.nr.toNat)) := by
  have htoNat : (BitVec.ofNat 4 i).toNat = i := by rw [BitVec.toNat_ofNat]; omega
  have hark := runsTransform_ark (s := s) (k := BitVec.ofNat 4 i) (by omega) (by omega)
  rwa [htoNat] at hark

theorem runsTransform_inner {i : Nat} (hi : i ≤ s.nr.toNat) (hnr : s.nr.toNat ≤ 14) :
    List.Forall₂ (RunsTransform s) (expandPseudo s.nr.toNat (innerRound s.dir i))
      (innerTransforms s.dir s.w s.nr.toNat i) := by
  have hark := runsTransform_arkAt hi hnr
  cases hdir : s.dir <;> rw [hdir] at hark
  · exact .cons (runsTransform_subb s) (.cons (runsTransform_shr s) (.cons (runsTransform_mixc s) (.cons hark .nil)))
  · exact .cons (runsTransform_ishr s) (.cons (runsTransform_isubb s) (.cons hark (.cons (runsTransform_imixc s) .nil)))

theorem runsTransform_final (hnr : s.nr.toNat ≤ 14) :
    List.Forall₂ (RunsTransform s) (expandPseudo s.nr.toNat (finalRound s.dir))
      (finalTransforms s.dir s.w s.nr.toNat) := by
  have hark := runsTransform_arkAt (s := s) le_rfl hnr
  cases hdir : s.dir <;> rw [hdir] at hark
  · exact .cons (runsTransform_subb s) (.cons (runsTransform_shr s) (.cons hark .nil))
  · exact .cons (runsTransform_ishr s) (.cons (runsTransform_isubb s) (.cons hark .nil))

theorem forall₂_flatMap {α β γ : Type} {R : α → β → Prop} {f : γ → List α} {g : γ → List β} {l : List γ}
    (h : ∀ x ∈ l, List.Forall₂ R (f x) (g x)) : List.Forall₂ R (l.flatMap f) (l.flatMap g) := by
  induction l with
  | nil => exact .nil
  | cons x l ih =>
    obtain ⟨hx, hl⟩ := List.forall_mem_cons.mp h
    exact List.rel_append hx (ih hl)

/-- Every micro-operation of the rounds completes as its State function, with the round key of the command's direction. -/
theorem runsTransform_roundUops (hnr : s.nr.toNat ≤ 14) :
    List.Forall₂ (RunsTransform s) (roundUops s.dir s.nr.toNat) (roundTransforms s.dir s.w s.nr.toNat) := by
  refine .cons (runsTransform_arkAt (Nat.zero_le _) hnr)
    (List.rel_append (forall₂_flatMap fun i hi => runsTransform_inner ?_ hnr) (runsTransform_final hnr))
  rw [List.mem_range'_1] at hi
  omega

theorem runsTransform_ldst (s : State) : RunsTransform s .ldst fun _ => loadCells s.din := fun _ _ => rfl

theorem exists_runsTransform_of_mem {is : List Instr} {fs : List (Cells → Cells)}
    (h : List.Forall₂ (RunsTransform s) is fs) {i : Instr} (hi : i ∈ is) : ∃ f, RunsTransform s i f := by
  induction h with
  | nil => cases hi
  | cons hhead _ ih =>
    obtain rfl | htail := List.mem_cons.mp hi
    · exact ⟨_, hhead⟩
    · exact ih htail

/-- Between its ends a micro-program writes only `W` and `ST`, and always completes. -/
theorem exec_middle {i : Instr} (hnr : s.nr.toNat ≤ 14) (hi : i ∈ Instr.kexp :: .ldst :: roundUops s.dir s.nr.toNat) :
    ∃ w st, exec i s = .next (advance { s with w := w, st := st }) := by
  rw [List.mem_cons] at hi
  obtain rfl | hi := hi
  · exact ⟨_, s.st, execKexp_next s⟩
  · have hall := List.Forall₂.cons (runsTransform_ldst s) (runsTransform_roundUops hnr)
    obtain ⟨f, hf⟩ := exists_runsTransform_of_mem hall hi
    exact ⟨s.w, f s.st, hf.exec_eq⟩

end

/-! ### The sequencer's step (R189) -/

/-- While the host does nothing, a busy engine runs the micro-operation at `UPC`. -/
theorem step_of_uprog {s : State} {i : Instr} (hbusy : s.busy = true) (hscript : s.env.script = [])
    (hnr : s.nr.toNat ≤ 14) (hi : (uprog s.dir s.nr.toNat)[s.upc.toNat]? = some i) : step s = exec i s := by
  have hwf := wf_of_wfFor (wfFor_of_mem_uprog s.dir hnr i (List.mem_of_getElem? hi))
  have hfetch : fetchWord s = some (encode i) := by
    rw [fetchWord_eq, hi]
    rfl
  rw [step_of_script_nil hscript, engineStep_busy hbusy, sequencerStep_of_decode hfetch (decodeOfEncode i hwf)]

theorem step_first {s : State} (hbusy : s.busy = true) (hscript : s.env.script = []) (hupc : s.upc = 0#6) :
    step s = execChklen s := by
  rw [step_of_script_nil hscript, engineStep_busy hbusy, sequencerStep_first hupc]

theorem step_last {s : State} (hbusy : s.busy = true) (hscript : s.env.script = []) (hnr : 1 ≤ s.nr.toNat)
    (hupc : s.upc.toNat = 4 * s.nr.toNat + 3) : step s = execStst s := by
  rw [step_of_script_nil hscript, engineStep_busy hbusy, sequencerStep_last hnr hupc]

theorem step_middle {s : State} (hbusy : s.busy = true) (hscript : s.env.script = []) (h1 : 1 ≤ s.nr.toNat)
    (h14 : s.nr.toNat ≤ 14) (hpos : 1 ≤ s.upc.toNat) (hlt : s.upc.toNat < 4 * s.nr.toNat + 3) :
    ∃ w st, step s = .next (advance { s with w := w, st := st }) := by
  have hprogram : uprog s.dir s.nr.toNat = .chklen :: (.kexp :: .ldst :: roundUops s.dir s.nr.toNat) ++ [.stst] := by
    simp [uprog_eq]
  have hlength := length_uprog s.dir h1
  obtain ⟨u, hu⟩ := Nat.exists_eq_add_of_le' hpos
  have hinside : u < (Instr.kexp :: .ldst :: roundUops s.dir s.nr.toNat).length := by
    rw [List.length_cons, List.length_cons, length_roundUops s.dir h1]
    omega
  obtain ⟨w, st, hexec⟩ := exec_middle h14 (List.getElem_mem hinside)
  refine ⟨w, st, (step_of_uprog hbusy hscript h14 ?_).trans hexec⟩
  rw [hprogram, hu, List.cons_append, List.getElem?_cons_succ, List.getElem?_append_left hinside,
    List.getElem?_eq_getElem hinside]

/-- Settles O40: the first micro-operation checks or raises, the last ends the command, and those between advance. -/
theorem sequencerAdvancesOrEnds : Obligations.SequencerAdvancesOrEnds := by
  intro s hinv hbusy hscript
  obtain ⟨hrvalid, hplace⟩ := hinv
  replace hrvalid := hrvalid hbusy
  obtain hupc | ⟨v, -, -, -, hnr, hpos, hle⟩ := hplace hbusy
  · rw [step_first hbusy hscript hupc]
    obtain ⟨-, hnext⟩ | ⟨v, -, -, hnext⟩ | ⟨v, -, -, hnext⟩ := execChklen_cases s
    · exact ⟨_, hnext, by simp, fun _ => ⟨rfl, .inr ⟨by simp [LengthError.status], hupc, rfl⟩⟩⟩
    · exact ⟨_, hnext, by simp, fun _ => ⟨rfl, .inr ⟨by simp [LengthError.status], hupc, rfl⟩⟩⟩
    · refine ⟨_, hnext, fun _ => ?_, by simp [hbusy]⟩
      simp [hupc, hrvalid]
  · obtain ⟨h1, h14⟩ := variant_nr_bounds v
    have hsucc : (s.upc + 1).toNat = s.upc.toNat + 1 := by bv_omega
    obtain hlast | hlt : s.upc.toNat = 4 * s.nr.toNat + 3 ∨ s.upc.toNat < 4 * s.nr.toNat + 3 := by omega
    · refine ⟨_, step_last hbusy hscript (by omega) hlast, by simp, fun _ => ⟨rfl, .inl ⟨rfl, hsucc, ?_⟩⟩⟩
      simp only [endOk_upc, endOk_nr, advance_upc, advance_nr]
      omega
    · obtain ⟨w, st, hnext⟩ := step_middle hbusy hscript (by omega) (by omega) hpos hlt
      refine ⟨_, hnext, fun _ => ⟨hsucc, ?_, hrvalid⟩, by simp [hbusy]⟩
      simp only [advance_upc, advance_nr]
      omega

/-! ### Runs of a command -/

/-- `n` steps from `s` to `t`, all of them from states in which the command runs and no response stands. -/
inductive BusyRun : Nat → State → State → Prop
  | refl (s : State) : BusyRun 0 s s
  | step {n : Nat} {s m t : State} (hbusy : s.busy = true) (hrvalid : s.rvalid = false) (hstep : step s = .next m)
      (hrest : BusyRun n m t) : BusyRun (n + 1) s t

namespace BusyRun

theorem single {s t : State} (hbusy : s.busy = true) (hrvalid : s.rvalid = false)
    (hstep : Machine.step s = .next t) : BusyRun 1 s t :=
  .step hbusy hrvalid hstep (.refl t)

theorem trans {m n : Nat} {s t u : State} (hst : BusyRun m s t) (htu : BusyRun n t u) : BusyRun (m + n) s u := by
  induction hst with
  | refl s => rwa [Nat.zero_add]
  | step hbusy hrvalid hstep _ ih =>
    rw [Nat.succ_add]
    exact .step hbusy hrvalid hstep (ih htu)

theorem reaches {n : Nat} {s t : State} (h : BusyRun n s t) : Reaches n s t := by
  induction h with
  | refl s => rfl
  | step _ _ hstep _ ih => exact ⟨_, hstep, ih⟩

/-- A step has one outcome, so before the end of the run any other count of steps leads into the run. -/
theorem busy_before {n k : Nat} {s t m : State} (h : BusyRun n s t) (hk : k < n) (hm : Reaches k s m) :
    m.busy = true ∧ response m = none := by
  induction h generalizing k with
  | refl s => omega
  | step hbusy hrvalid hstep _ ih =>
    cases k with
    | zero =>
      cases hm
      exact ⟨hbusy, by simp [response, hrvalid]⟩
    | succ k =>
      obtain ⟨m', hstep', hm⟩ := hm
      rw [hstep] at hstep'
      cases hstep'
      exact ih (by omega) hm

end BusyRun

/-- The state of the command in `s` at index `u` of its micro-program, with the cells `st`. -/
def atIndex (s : State) (st : Cells) (u : Nat) : State := { s with st := st, upc := BitVec.ofNat 6 u }

/-- A stretch of a micro-program made of transforms runs as their State functions, one a step. -/
theorem busyRun_of_runsTransform {s : State} {is : List Instr} {fs : List (Cells → Cells)}
    (h : List.Forall₂ (RunsTransform s) is fs) (hbusy : s.busy = true) (hrvalid : s.rvalid = false)
    (hscript : s.env.script = []) (hnr : s.nr.toNat ≤ 14) {before after : List Instr}
    (hprogram : uprog s.dir s.nr.toNat = before ++ (is ++ after)) (st : Cells) :
    BusyRun is.length (atIndex s st before.length)
      (atIndex s (fs.foldl (fun st f => f st) st) (before.length + is.length)) := by
  induction h generalizing st before with
  | nil => exact .refl _
  | @cons i f is fs hi _ ih =>
    have hlength : before.length < 64 := by
      have hle := length_uprog_le s.dir s.nr
      rw [hprogram, List.length_append, List.cons_append, List.length_cons] at hle
      omega
    have hat : (uprog s.dir s.nr.toNat)[(atIndex s st before.length).upc.toNat]? = some i := by
      rw [atIndex, BitVec.toNat_ofNat, Nat.mod_eq_of_lt hlength, hprogram]
      simp
    have hstep : step (atIndex s st before.length) = .next (atIndex s (f st) (before.length + 1)) := by
      rw [step_of_uprog (s := atIndex s st before.length) hbusy hscript hnr hat, atIndex, hi, atIndex, BitVec.ofNat_add]
      rfl
    have hrest := ih (before := before ++ [i]) (by simp [hprogram]) (f st)
    rw [List.length_append, List.length_singleton, Nat.add_assoc, Nat.add_comm 1] at hrest
    exact .step hbusy hrvalid hstep hrest

/-! ### A command from its acceptance to its response (R190) -/

/-- The state of an accepted command once its lengths are checked (R182). -/
def checked (s : State) (v : Variant) : State :=
  { s with nk := BitVec.ofNat 4 v.nk, nr := BitVec.ofNat 4 v.nr, upc := 1#6 }

/-- The same once its key is expanded too (R160). -/
def prepared (s : State) (v : Variant) : State :=
  { checked s v with w := expandKey v.nk v.nr s.key s.w, upc := 2#6 }

theorem checked_nk_toNat (s : State) (v : Variant) : (checked s v).nk.toNat = v.nk := toNat_ofNat_variant_nk v

theorem checked_nr_toNat (s : State) (v : Variant) : (checked s v).nr.toNat = v.nr := toNat_ofNat_variant_nr v

theorem prepared_nr_toNat (s : State) (v : Variant) : (prepared s v).nr.toNat = v.nr := toNat_ofNat_variant_nr v

theorem exec_kexp_checked (s : State) (v : Variant) : exec .kexp (checked s v) = .next (prepared s v) := by
  refine (execKexp_next _).trans ?_
  rw [checked_nk_toNat, checked_nr_toNat]
  rfl

section

variable {s : State} {v : Variant}

theorem busyRun_prepared (h : JustAccepted s) (hklen : variantOfKeyLength s.klen = some v) (hblen : s.blen = 16#8) :
    BusyRun 2 s (prepared s v) := by
  obtain ⟨hbusy, hrvalid, hupc, hscript⟩ := h
  have hcheck : step s = .next (checked s v) := by
    rw [step_first hbusy hscript hupc, execChklen_of_legal hklen hblen, advance, hupc]
    rfl
  have hnr : (checked s v).nr.toNat ≤ 14 := (checked_nr_toNat s v).trans_le (variant_nr_bounds v).2
  have hexpand : step (checked s v) = .next (prepared s v) :=
    (step_of_uprog (s := checked s v) hbusy hscript hnr rfl).trans (exec_kexp_checked s v)
  exact .step hbusy hrvalid hcheck (.single hbusy hrvalid hexpand)

theorem busyRun_rounds (h : JustAccepted s) : BusyRun (4 * v.nr + 1) (prepared s v)
    (atIndex (prepared s v) (runRounds s.dir (prepared s v).w v.nr (loadCells s.din)) (4 * v.nr + 3)) := by
  obtain ⟨hbusy, hrvalid, -, hscript⟩ := h
  obtain ⟨h1, h14⟩ := variant_nr_bounds v
  have hnr := prepared_nr_toNat s v
  have hall := List.Forall₂.cons (runsTransform_ldst _) (runsTransform_roundUops (s := prepared s v) (by omega))
  have hrun := busyRun_of_runsTransform hall hbusy hrvalid hscript (by omega) (uprog_eq _ _) s.st
  rw [List.foldl_cons, foldl_roundTransforms, hnr, List.length_cons, length_roundUops _ h1, Nat.add_comm _ (4 * v.nr + 1)]
    at hrun
  exact hrun

/-- With legal lengths a command checks, expands its key, runs its rounds and stores, and responds with what it stored. -/
theorem busyRun_of_legal (h : JustAccepted s) (hklen : variantOfKeyLength s.klen = some v) (hblen : s.blen = 16#8) :
    ∃ t, BusyRun (4 * v.nr + 4) s t ∧ t.busy = false ∧
      response t = some (.ok (storeCells (runRounds s.dir (expandKey v.nk v.nr s.key s.w) v.nr (loadCells s.din)))) := by
  obtain ⟨h1, h14⟩ := variant_nr_bounds v
  have hnr := prepared_nr_toNat s v
  have hrounds := (busyRun_prepared h hklen hblen).trans (busyRun_rounds h)
  obtain ⟨hbusy, hrvalid, -, hscript⟩ := h
  have hupc : (BitVec.ofNat 6 (4 * v.nr + 3)).toNat = 4 * (prepared s v).nr.toNat + 3 := by
    rw [hnr, BitVec.toNat_ofNat]
    omega
  have hstore (st : Cells) := step_last (s := atIndex (prepared s v) st (4 * v.nr + 3)) hbusy hscript (h1.trans_eq hnr.symm) hupc
  have hcount : 2 + (4 * v.nr + 1) + 1 = 4 * v.nr + 4 := by omega
  exact ⟨_, hcount ▸ hrounds.trans (.single hbusy hrvalid (hstore _)), rfl, rfl⟩

/-- Every accepted command runs to its end in the steps that R193 counts, and responds as `Run` does. -/
theorem busyRun_command (h : JustAccepted s) : ∃ t, BusyRun (commandSteps s.klen s.blen) s t ∧ t.busy = false ∧
    response t = some (runCommand s.dir s.klen s.blen s.key s.din) := by
  have ⟨hbusy, hrvalid, hupc, hscript⟩ := h
  have hfirst := step_first hbusy hscript hupc
  cases hv : variantOfKeyLength s.klen with
  | none =>
    rw [execChklen_of_key_illegal hv] at hfirst
    rw [runCommand_of_key_illegal hv, commandSteps, hv]
    exact ⟨_, .single hbusy hrvalid hfirst, rfl, rfl⟩
  | some v =>
    by_cases hblen : s.blen = 16#8
    · obtain ⟨t, hrun, hidle, hresponse⟩ := busyRun_of_legal h hv hblen
      rw [hblen, runCommand_of_legal hv, runRounds_expandKey_congr hv (fun _ _ => rfl) blankSchedule s.w, commandSteps, hv]
      exact ⟨t, hrun, hidle, hresponse⟩
    · rw [execChklen_of_block_illegal hv hblen] at hfirst
      rw [runCommand_of_block_illegal hv hblen, commandSteps, hv]
      simp only [if_neg hblen]
      exact ⟨_, .single hbusy hrvalid hfirst, rfl, rfl⟩

end

/-- Settles O50: the run is busy up to its last state, which has the response. -/
theorem smallStepMeetsBigStep : Obligations.SmallStepMeetsBigStep := by
  intro s h
  obtain ⟨t, hrun, hidle, hresponse⟩ := busyRun_command h
  exact ⟨⟨t, hrun.reaches, hidle, hresponse⟩, fun n m hn hm => hrun.busy_before hn hm⟩

/-! ### A command presented to an idle engine (R181, R190) -/

theorem lt_length_of_getElem?_eq {n j : Nat} {v : Vector Byte n} {shown : List Byte} (hj : j < n)
    (h : v[j]? = shown[j]?) : j < shown.length := by
  rw [Vector.getElem?_eq_getElem hj] at h
  exact (List.getElem?_eq_some_iff.mp h.symm).1

/-- The key buffer agrees in use with every buffer that holds the bytes shown. -/
theorem getElem?_latchKey_of_shown {klen : BitVec 8} {shown : List Byte} {key : KeyBuffer}
    (h : ∀ j, j < klen.toNat → j < 32 → key[j]? = shown[j]?) (n : Nat) :
    ∀ j < klen.toNat, (latchKey klen shown n)[j]? = key[j]? := by
  intro j hj
  by_cases h32 : j < 32
  · rw [getElem?_latchKey n hj h32 (lt_length_of_getElem?_eq h32 (h j hj h32)), h j hj h32]
  · rw [Vector.getElem?_eq_none (by omega), Vector.getElem?_eq_none (by omega)]

theorem latchBlock_of_shown {shown : List Byte} {b : Block} (h : ∀ j, j < 16 → b[j]? = shown[j]?) (n : Nat) :
    latchBlock 16#8 shown n = b := by
  refine Vector.ext fun j h16 => Option.some.inj ?_
  rw [← Vector.getElem?_eq_getElem, ← Vector.getElem?_eq_getElem, h j h16]
  exact getElem?_latchBlock n h16 h16 (lt_length_of_getElem?_eq h16 (h j h16))

/-- Settles O51: the step of acceptance latches the payload, and from there the command runs as every accepted one. -/
theorem presentedCommandGetsItsResponse : Obligations.PresentedCommandGetsItsResponse := by
  intro s cmd key blk K B d klen blen hidle hscript hdecode hK hB
  have hcommand := Decoded.instr.inj hdecode
  have hlines : (driveLines key blk (setScript [] s)).busy = false := hidle
  have hstep : step s = .next (acceptCommand d klen blen (driveLines key blk (setScript [] s))) := by
    rw [step_of_present_idle hscript hidle, hcommand, exec_command, accept_of_idle hlines]
  obtain ⟨t, hrun, hended, hresponse⟩ := busyRun_command
    (s := acceptCommand d klen blen (driveLines key blk (setScript [] s))) ⟨rfl, rfl, rfl, rfl⟩
  refine ⟨t, ?_, hended, hresponse.trans (congrArg some ?_)⟩
  · rw [Nat.add_comm]
    exact ⟨_, hstep, hrun.reaches⟩
  · refine runCommand_congr d (getElem?_latchKey_of_shown hK s.freeCount) ?_
    rintro rfl
    exact latchBlock_of_shown (fun j hj => hB j hj hj) s.freeCount

end Sys2Proof.Machine


/-! The statements of 60_exceptions.md: no step from the invariant stops (O43), only the first step of a command can fail
(O44), an idle engine stays as it is (O49), instances do not interact (O56), and what the trace tap shows (O57). -/

namespace Sys2Proof.Machine

/-! ### The sequencer past `CHKLEN` (R187 to R189) -/

/-- Index 0 is the only place of `CHKLEN`: later entries write `W` or `ST`, or are the last. -/
theorem middle_or_stst_of_uprog {d : Dir} {nr u : Nat} {i : Instr} (hu : 1 ≤ u) (hi : (uprog d nr)[u]? = some i) :
    i ∈ Instr.kexp :: .ldst :: roundUops d nr ∨ i = .stst := by
  obtain ⟨u, rfl⟩ := Nat.exists_eq_add_of_le' hu
  have hprogram : uprog d nr = .chklen :: ((.kexp :: .ldst :: roundUops d nr) ++ [.stst]) := by simp [uprog_eq]
  rw [hprogram, List.getElem?_cons_succ] at hi
  exact (List.mem_append.mp (List.mem_of_getElem? hi)).imp_right List.mem_singleton.mp

/-- Past `CHKLEN` the sequencer advances, having written `W` or `ST`, or runs its `STST`. -/
theorem sequencerStep_of_pastCheck {s : State} (h : PastCheck s) :
    (∃ w st, sequencerStep s = .next (advance { s with w := w, st := st })) ∨ sequencerStep s = execStst s := by
  obtain ⟨v, -, -, -, hnr, hpos, hle⟩ := h
  obtain ⟨h1, h14⟩ := variant_nr_bounds v
  rw [← hnr] at h1 h14 hle
  have hinside : s.upc.toNat < (uprog s.dir s.nr.toNat).length := by
    rw [length_uprog s.dir h1]
    omega
  have hi := List.getElem?_eq_getElem hinside
  have hwf := wf_of_wfFor (wfFor_of_mem_uprog s.dir h14 _ (List.getElem_mem hinside))
  have hfetch : fetchWord s = some (encode (uprog s.dir s.nr.toNat)[s.upc.toNat]) := by rw [fetchWord_eq, hi, Option.map_some]
  rw [sequencerStep_of_decode hfetch (decodeOfEncode _ hwf)]
  obtain hmiddle | hstst := middle_or_stst_of_uprog hpos hi
  · exact .inl (exec_middle h14 hmiddle)
  · rw [hstst]
    exact .inr rfl

theorem exists_sequencerStep_next {s : State} (hinv : Inv s) (hbusy : s.busy = true) : ∃ t, sequencerStep s = .next t := by
  obtain hupc | hpast := hinv.2 hbusy
  · rw [sequencerStep_first hupc]
    obtain ⟨-, hnext⟩ | ⟨_, -, -, hnext⟩ | ⟨_, -, -, hnext⟩ := execChklen_cases s <;> exact ⟨_, hnext⟩
  · obtain ⟨w, st, hnext⟩ | hstst := sequencerStep_of_pastCheck hpast
    · exact ⟨_, hnext⟩
    · exact ⟨_, hstst⟩

theorem exists_engineStep_next {s : State} (hinv : Inv s) : ∃ t, engineStep s = .next t := by
  cases hbusy : s.busy with
  | true => rw [engineStep_busy hbusy]; exact exists_sequencerStep_next hinv hbusy
  | false => exact ⟨s, engineStep_idle hbusy⟩

/-- Settles O43: a running command always has its next micro-operation, and the host presents a command to an idle engine
only. -/
theorem noStepStops : Obligations.NoStepStops := by
  intro s hinv
  obtain ⟨-, hstep⟩ | ⟨rest, -, hstep⟩ | ⟨rest, -, hstep⟩ | ⟨rest, -, hstep⟩ | ⟨_, _, _, _, -, hbusy, hstep⟩ |
    ⟨cmd, key, blk, rest, -, hidle, hstep⟩ := step_cases s <;> rw [hstep]
  · exact exists_engineStep_next hinv
  · exact exists_engineStep_next (s := setScript rest s) hinv
  · exact ⟨_, rfl⟩
  · exact ⟨_, rfl⟩
  · exact exists_sequencerStep_next hinv hbusy
  · have hlines : (driveLines key blk (setScript rest s)).busy = false := hidle
    obtain ⟨k, b, hcmd | hcmd⟩ := decodeCommand_cases cmd <;> rw [hcmd] <;> exact ⟨_, accept_of_idle hlines _ k b⟩

/-! ### Errors (R211, R212) -/

theorem response_of_not_rvalid {s : State} (h : s.rvalid = false) : response s = none := by simp [response, h]

/-- The sequencer leaves an error only by the `CHKLEN` at index 0, and only for a wrong length. -/
theorem first_and_illegal_of_error {s t : State} {e : LengthError} (hinv : Inv s) (hbusy : s.busy = true)
    (h : sequencerStep s = .next t) (he : response t = some (.err e)) :
    fetchWord s = some (.uop 0x00#8) ∧ s.upc = 0#6 ∧ (variantOfKeyLength s.klen = none ∨ s.blen ≠ 16#8) := by
  obtain ⟨hrvalid, hplace⟩ := hinv
  replace hrvalid := hrvalid hbusy
  obtain hupc | hpast := hplace hbusy
  · have hfetch : fetchWord s = some (.uop 0x00#8) := by rw [fetchWord_eq, hupc]; rfl
    rw [sequencerStep_first hupc] at h
    obtain ⟨hklen, -⟩ | ⟨_, -, hblen, -⟩ | ⟨_, -, -, hnext⟩ := execChklen_cases s
    · exact ⟨hfetch, hupc, .inl hklen⟩
    · exact ⟨hfetch, hupc, .inr hblen⟩
    · rw [hnext] at h
      cases h
      cases (response_of_not_rvalid hrvalid).symm.trans he
  · obtain ⟨w, st, hnext⟩ | hstst := sequencerStep_of_pastCheck hpast
    · rw [hnext] at h
      cases h
      cases (response_of_not_rvalid hrvalid).symm.trans he
    · rw [hstst] at h
      cases h
      simp [response] at he

/-! ### Whose step it is (R180, R196, log entry 5) -/

theorem hostYields_cases (l : List HostAction) :
    hostYields l = true ∨ hostYields l = false ∧ ((∃ rest, l = .readResponse :: rest) ∨ ∃ rest, l = .reset :: rest) := by
  cases l with
  | nil => exact .inl rfl
  | cons a rest => cases a <;> simp [hostYields]

/-- A busy engine takes the step that the host leaves to it; at most the host's script has moved on. -/
theorem step_of_hostYields {s : State} (hbusy : s.busy = true) (h : hostYields s.env.script = true) :
    ∃ l, step s = sequencerStep (setScript l s) := by
  obtain ⟨-, hstep⟩ | ⟨rest, -, hstep⟩ | ⟨rest, hscript, -⟩ | ⟨rest, hscript, -⟩ | ⟨_, _, _, _, -, -, hstep⟩ |
    ⟨_, _, _, _, -, hidle, -⟩ := step_cases s
  · exact ⟨s.env.script, hstep.trans (engineStep_busy hbusy)⟩
  · exact ⟨rest, hstep.trans (engineStep_busy (s := setScript rest s) hbusy)⟩
  · simp [hscript, hostYields] at h
  · simp [hscript, hostYields] at h
  · exact ⟨s.env.script, hstep⟩
  · simp [hidle] at hbusy

/-- Settles O44: a read leaves no response where none stood, and the rest is the sequencer's step. -/
theorem onlyTheFirstStepCanFail : Obligations.OnlyTheFirstStepCanFail := by
  rintro s t hinv hbusy h hreset ⟨e, he⟩
  obtain hyields | ⟨-, ⟨rest, hread⟩ | ⟨rest, hscript⟩⟩ := hostYields_cases s.env.script
  · obtain ⟨l, hstep⟩ := step_of_hostYields hbusy hyields
    exact first_and_illegal_of_error (s := setScript l s) hinv hbusy (hstep.symm.trans h) he
  · rw [step_of_readResponse hread] at h
    cases h
    cases (response_of_not_rvalid (hinv.1 hbusy)).symm.trans he
  · exact absurd hscript (hreset rest)

/-! ### The idle engine (R225) -/

theorem eq_of_reaches_of_step_self {s t : State} (h : step s = .next s) {n : Nat} (hrun : Reaches n s t) : t = s := by
  induction n with
  | zero => exact hrun.symm
  | succ n ih =>
    obtain ⟨m, hm, hrest⟩ := hrun
    cases h.symm.trans hm
    exact ih hrest

/-- Settles O49: the step of an idle engine whose host has nothing to do leads to the same state. -/
theorem idleEngineStaysIdle : Obligations.IdleEngineStaysIdle := fun _ hidle hscript _ _ hrun =>
  eq_of_reaches_of_step_self ((step_of_script_nil hscript).trans (engineStep_idle hidle)) hrun

/-! ### Several instances (R224) -/

theorem stepInstance_eq_next_iff {ninst : Nat} {j : Fin ninst} {sys a : Instances ninst} :
    stepInstance ninst j sys = .next a ↔ ∃ t, step sys[j] = .next t ∧ a = sys.set j t := by
  unfold stepInstance
  cases step sys[j] <;> simp [eq_comm]

/-- Settles O56: a step of one engine reads and writes its own entry of the system, and writes of two entries commute. -/
theorem instancesDoNotInteract : Obligations.InstancesDoNotInteract := by
  intro ninst j k sys a b hne hj hk
  obtain ⟨t, ht, rfl⟩ := stepInstance_eq_next_iff.mp hj
  obtain ⟨u, hu, rfl⟩ := stepInstance_eq_next_iff.mp hk
  have hne' : j.val ≠ k.val := Fin.val_ne_of_ne hne
  have hother : ∀ l : Fin ninst, l ≠ j → (sys.set j t)[l] = sys[l] := fun l hl =>
    Vector.getElem_set_ne _ _ (Fin.val_ne_of_ne hl.symm)
  rw [hother k hne.symm] at hu
  refine ⟨hother, by simpa using ht, sys.set k u, stepInstance_eq_next_iff.mpr ⟨u, hu, rfl⟩,
    stepInstance_eq_next_iff.mpr ⟨t, ?_, Vector.set_comm _ _ hne'⟩⟩
  exact (congrArg step (Vector.getElem_set_ne _ _ hne'.symm)).trans ht

/-! ### The trace tap (R226) -/

theorem tapOfStep_of_next {s t : State} (h : step s = .next t) (trace : Bool) :
    tapOfStep trace s = (microOpOfStep s).bind fun i => tapAfter trace i t := by
  unfold tapOfStep
  cases microOpOfStep s <;> simp [h]

theorem microOpOfStep_of_idle {s : State} (h : s.busy = false) : microOpOfStep s = none := by simp [microOpOfStep, h]

theorem microOpOfStep_of_not_hostYields {s : State} (h : hostYields s.env.script = false) : microOpOfStep s = none := by
  simp [microOpOfStep, h]

theorem microOpOfStep_of_decode {s : State} {w : InstrWord} {i : Instr} (hbusy : s.busy = true)
    (hyields : hostYields s.env.script = true) (hfetch : fetchWord s = some w) (hdecode : decode w = .instr i) :
    microOpOfStep s = some i := by
  simp [microOpOfStep, hbusy, hyields, hfetch, hdecode]

theorem tapAfter_false (i : Instr) (t : State) : tapAfter false i t = none := rfl

theorem tapAfter_eq_some_iff {i : Instr} {t : State} {e : TapEvent} :
    tapAfter true i t = some e ↔ tapName i = some e.transform ∧ e.cells = t.st := by
  cases e
  simp [tapAfter, eq_comm]

/-- The tap follows the seven State transforms. -/
theorem exists_tapName_iff (i : Instr) :
    (∃ name, tapName i = some name) ↔ i ∈ [.subb, .isubb, .shr, .ishr, .mixc, .imixc] ∨ ∃ k, i = .ark k := by
  cases i <;> simp [tapName]

/-- Settles O57: a step's event is that of the micro-operation it runs, which `tapName` names exactly for the transforms. -/
theorem tapShowsStateTransforms : Obligations.TapShowsStateTransforms := by
  intro s t h
  have htap := tapOfStep_of_next h
  refine ⟨by simp [htap, tapAfter_false], fun hsilent => ?_, fun w i hbusy hread hreset hfetch hdecode => ?_, fun e he => ?_⟩
  · have hnone : microOpOfStep s = none := by
      obtain hidle | ⟨rest, hscript⟩ | ⟨rest, hscript⟩ := hsilent
      · exact microOpOfStep_of_idle hidle
      · exact microOpOfStep_of_not_hostYields (by rw [hscript]; rfl)
      · exact microOpOfStep_of_not_hostYields (by rw [hscript]; rfl)
    rw [htap, hnone, Option.bind_none]
  · have hyields : hostYields s.env.script = true := by
      obtain hyields | ⟨-, ⟨rest, hscript⟩ | ⟨rest, hscript⟩⟩ := hostYields_cases s.env.script
      · exact hyields
      · exact absurd hscript (hread rest)
      · exact absurd hscript (hreset rest)
    rw [htap, microOpOfStep_of_decode hbusy hyields hfetch hdecode, Option.bind_some]
    have shown {name : String} (hname : tapName i = some name) : tapAfter true i t = some ⟨name, t.st⟩ :=
      tapAfter_eq_some_iff.mpr ⟨hname, rfl⟩
    refine ⟨?_, fun hi => shown (hi ▸ rfl), fun hi => shown (hi ▸ rfl), fun hi => shown (hi ▸ rfl), fun hi => shown (hi ▸ rfl),
      fun hi => shown (hi ▸ rfl), fun hi => shown (hi ▸ rfl), fun ⟨k, hi⟩ => shown (hi ▸ rfl)⟩
    simpa only [tapAfter_eq_some_iff, and_true] using exists_tapName_iff i
  · rw [htap, Option.bind_eq_some_iff] at he
    obtain ⟨i, -, hi⟩ := he
    exact (tapAfter_eq_some_iff.mp hi).2

end Sys2Proof.Machine


/-! The statements of 70_reset_and_hazards.md: reset (O41, O47), one command at a time (O34), the inputs copied at acceptance
(O45), and no residue of one command in a later one (O52). -/

namespace Sys2Proof.Machine

/-! ### Reset (R240, R241) -/

theorem step_of_reset {s : State} {rest : List HostAction} (h : s.env.script = .reset :: rest) :
    step s = .next (hostReset (setScript rest s)) := by
  simp [step, stepAgents, h]

/-- Settles O41: an idle state meets the invariant. -/
theorem resetMeetsInvariant : Obligations.ResetMeetsInvariant :=
  ⟨inv_of_idle reset_busy, reset_busy, reset_rvalid, response_of_not_rvalid reset_rvalid⟩

/-- Settles O47: the host's reset is its own step, whatever the engine does. -/
theorem resetAbandonsTheCommand : Obligations.ResetAbandonsTheCommand := fun _ _ hscript =>
  ⟨_, step_of_reset hscript, rfl, rfl, response_of_not_rvalid rfl, rfl⟩

/-! ### Nothing held before acceptance reaches a response (R31, R250) -/

/-- Settles O52: both responses are that of `Run` on buffers that hold the bytes shown, and `Run` has the command and its
payload alone as arguments. -/
theorem noResidueAcrossCommands : Obligations.NoResidueAcrossCommands := by
  intro s1 s2 cmd key blk i klen blen hidle1 hidle2 hscript1 hscript2 hdecode hcommand hkey hblk
  obtain ⟨d, rfl⟩ : ∃ d : Dir, i = if d = .enc then .enc klen blen else .dec klen blen :=
    hcommand.elim (fun h => ⟨.enc, h⟩) (fun h => ⟨.dec, h⟩)
  have hK : ∀ j, j < klen.toNat → j < 32 → (latchKey klen key 0)[j]? = key[j]? := fun _ hj h32 =>
    getElem?_latchKey 0 hj h32 (hj.trans_le hkey)
  have hB : ∀ j, j < blen.toNat → j < 16 → (latchBlock blen blk 0)[j]? = blk[j]? := fun _ hj h16 =>
    getElem?_latchBlock 0 hj h16 (hj.trans_le hblk)
  obtain ⟨t1, hrun1, hended1, hresponse1⟩ :=
    presentedCommandGetsItsResponse s1 cmd key blk _ _ d klen blen hidle1 hscript1 hdecode hK hB
  obtain ⟨t2, hrun2, hended2, hresponse2⟩ :=
    presentedCommandGetsItsResponse s2 cmd key blk _ _ d klen blen hidle2 hscript2 hdecode hK hB
  exact ⟨t1, t2, hrun1, hrun2, hended1, hended2, Option.isSome_of_eq_some hresponse1, hresponse1.trans hresponse2.symm⟩

/-! ### A running command neither reads nor writes the host (R247, R248) -/

/-- The engine as it is, beside a host that `f` has changed: `setScript` and `driveLines` are two cases of it. -/
def changeHost (f : Env → Env) (s : State) : State := { s with env := f s.env }

theorem setScript_eq_changeHost (l : List HostAction) : setScript l = changeHost fun e => { e with script := l } := rfl

theorem driveLines_eq_changeHost (key blk : List Byte) :
    driveLines key blk = changeHost fun e => { e with key := key, blk := blk } := rfl

section

variable {s t : State} {i : Instr}

theorem execChklen_changeHost (f : Env → Env) (h : execChklen s = .next t) :
    execChklen (changeHost f s) = .next (changeHost f t) := by
  obtain ⟨hklen, hnext⟩ | ⟨v, hklen, hblen, hnext⟩ | ⟨v, hklen, hblen, hnext⟩ := execChklen_cases s <;>
    rw [hnext] at h <;> cases h
  · exact execChklen_of_key_illegal (s := changeHost f s) hklen
  · exact execChklen_of_block_illegal (s := changeHost f s) hklen hblen
  · exact execChklen_of_legal (s := changeHost f s) hklen hblen

theorem execArk_changeHost {k : BitVec 4} (f : Env → Env) (h : execArk k s = .next t) :
    execArk k (changeHost f s) = .next (changeHost f t) := by
  obtain ⟨-, hrefused⟩ | ⟨hk, hnr, hnext⟩ := execArk_cases k s
  · simp [hrefused] at h
  · rw [hnext] at h
    cases h
    exact (runsTransform_ark (s := changeHost f s) hk hnr).exec_eq

theorem execStst_changeHost (f : Env → Env) (h : execStst s = .next t) :
    execStst (changeHost f s) = .next (changeHost f t) := by
  cases h
  simp only [execStst, changeHost, endOk, endFlags, advance]

/-- Only acceptance reads the host, and a busy engine accepts nothing. -/
theorem exec_changeHost (f : Env → Env) (hbusy : s.busy = true) (h : exec i s = .next t) :
    exec i (changeHost f s) = .next (changeHost f t) := by
  cases i with
  | enc klen blen => cases (accept_of_busy hbusy .enc klen blen).symm.trans h
  | dec klen blen => cases (accept_of_busy hbusy .dec klen blen).symm.trans h
  | chklen => exact execChklen_changeHost f h
  | ark k => exact execArk_changeHost f h
  | stst => exact execStst_changeHost f h
  | kexp | ldst | subb | shr | mixc | isubb | ishr | imixc =>
    cases h
    rfl

theorem sequencerStep_changeHost (f : Env → Env) (hbusy : s.busy = true) (h : sequencerStep s = .next t) :
    sequencerStep (changeHost f s) = .next (changeHost f t) := by
  obtain ⟨w, i, hfetch, hdecode, hexec⟩ := fetched_instr_of_sequencerStep h
  exact (sequencerStep_of_decode (s := changeHost f s) hfetch hdecode).trans (exec_changeHost f hbusy hexec)

/-- With a host that has nothing to do, a busy engine's step is the sequencer's, whatever else the host holds. -/
theorem step_changeHost (f : Env → Env) (hscript : (f s.env).script = []) (hbusy : s.busy = true)
    (h : sequencerStep s = .next t) : step (changeHost f s) = .next (changeHost f t) := by
  rw [step_of_script_nil (s := changeHost f s) hscript, engineStep_busy (s := changeHost f s) hbusy]
  exact sequencerStep_changeHost f hbusy h

/-- The host is no part of what an instruction writes (R20). -/
theorem env_of_sequencerStep (h : sequencerStep s = .next t) : t.env = s.env := by
  obtain ⟨i, hexec⟩ := exec_of_sequencerStep h
  obtain ⟨-, -, -, -, -, -, -, henv⟩ := eachFieldHasItsWriters i s t hexec
  exact henv

end

/-- Settles O34: the sequencer's step is the same for every host, and an idle engine accepts every command word. -/
theorem oneCommandAtATime : Obligations.OneCommandAtATime := by
  refine fun s cmd key blk rest hinv hscript => ⟨fun hbusy => ?_, fun hidle => ?_⟩
  · obtain ⟨t, ht⟩ := exists_sequencerStep_next hinv hbusy
    have hstep : step s = .next t := by rw [step_of_present_busy hscript hbusy, engineStep_busy hbusy, ht]
    refine ⟨t, hstep, env_of_sequencerStep ht, ?_⟩
    rw [setScript_eq_changeHost]
    exact step_changeHost _ rfl hbusy ht
  · have hlines : (driveLines key blk (setScript rest s)).busy = false := hidle
    rw [step_of_present_idle hscript hidle]
    obtain ⟨k, b, hcmd | hcmd⟩ := decodeCommand_cases cmd <;> rw [hcmd] <;>
      exact ⟨_, accept_of_idle hlines _ k b, rfl, rfl, rfl⟩

/-! ### The copies of the inputs (R248) -/

/-- `t` holds the same copies of a command's inputs as `s`. -/
def SameInputs (s t : State) : Prop :=
  t.dir = s.dir ∧ t.klen = s.klen ∧ t.blen = s.blen ∧ t.key = s.key ∧ t.din = s.din

theorem SameInputs.refl (s : State) : SameInputs s s := ⟨rfl, rfl, rfl, rfl, rfl⟩

/-- Of the instructions only the two commands write the copies (R20), and a busy engine accepts neither. -/
theorem sameInputs_of_sequencerStep {s t : State} (hbusy : s.busy = true) (h : sequencerStep s = .next t) :
    SameInputs s t := by
  obtain ⟨i, hexec⟩ := exec_of_sequencerStep h
  cases execEffect_of_exec hexec with
  | accepted d k b command idle => simp [idle] at hbusy
  | raised | checked | expanded | cellsWritten | stored => simp [SameInputs]

theorem sameInputs_of_engineStep {s t : State} (h : engineStep s = .next t) : SameInputs s t := by
  cases hbusy : s.busy with
  | true => exact sameInputs_of_sequencerStep hbusy (engineStep_busy hbusy ▸ h)
  | false =>
    rw [engineStep_idle hbusy] at h
    cases h
    exact .refl s

theorem sameInputs_of_step {s t : State} (h : step s = .next t)
    (hpresent : s.busy = true ∨ ∀ cmd key blk rest, s.env.script ≠ .present cmd key blk :: rest)
    (hreset : ∀ rest, s.env.script ≠ .reset :: rest) : SameInputs s t := by
  obtain ⟨-, hstep⟩ | ⟨rest, -, hstep⟩ | ⟨rest, -, hstep⟩ | ⟨rest, hscript, -⟩ | ⟨_, _, _, _, -, hbusy, hstep⟩ |
    ⟨cmd, key, blk, rest, hscript, hidle, -⟩ := step_cases s
  · exact sameInputs_of_engineStep (hstep ▸ h)
  · exact sameInputs_of_engineStep (s := setScript rest s) (hstep ▸ h)
  · rw [hstep] at h
    cases h
    exact .refl s
  · exact absurd hscript (hreset rest)
  · exact sameInputs_of_sequencerStep hbusy (hstep ▸ h)
  · obtain hbusy | hnone := hpresent
    · simp [hidle] at hbusy
    · exact absurd hscript (hnone cmd key blk rest)

/-- Settles O45: only acceptance and reset write the copies, the sequencer does not see the host's lines, and acceptance copies
what stands on them. -/
theorem latchedInputsAreStable : Obligations.LatchedInputsAreStable := by
  refine ⟨fun s t hpresent h hreset => sameInputs_of_step h hpresent hreset, fun s t key blk hbusy hscript h => ?_,
    fun s d klen blen hidle hkey hblk => ?_⟩
  · rw [step_of_script_nil hscript, engineStep_busy hbusy] at h
    rw [driveLines_eq_changeHost]
    exact step_changeHost _ hscript hbusy h
  · rw [exec_command]
    exact ⟨_, accept_of_idle hidle d klen blen, rfl, rfl, rfl,
      fun j h32 hj => getElem?_latchKey s.freeCount hj h32 (hj.trans_eq hkey),
      fun j h16 hj => getElem?_latchBlock s.freeCount hj h16 (hj.trans_eq hblk)⟩

end Sys2Proof.Machine
